-- ==== Sys2Proof/Word.lean ====
section
/-!
DEFINITION. The word types of the CTE32 engine: the 32-bit word every value of the engine has (rules R7,
R8 of spec/00_scope.md), the stream byte, and the 32-row bit matrix (rule R170 of
spec/41_gf2_operator.md).
-/

namespace Sys2Proof

/-- A 32-bit engine value: a general register, a matrix row, a table entry, a command word (R7). -/
abbrev Word := BitVec 32

/-- A stream byte, and an index of the CRC ROM or of the advance table (R70). -/
abbrev Byte := BitVec 8

/-- A word address of the host port (R70: `0x00`–`0xFF`). -/
abbrev HostAddr := BitVec 8

/-- BitMatrix32: "32 ordered rows, each a 32-bit vector" (R32, R170). -/
abbrev BitMatrix32 := Vector Word 32

end Sys2Proof
end

