-- ==== Sys2Proof/Syntax.lean ====
section
/-!
DEFINITION. The command set: one constructor of `Instr` per row of spec/opcode_table.json (rule R110 of
spec/30_encoding.md), and the source-level command line of the spec's assembler (rules R120, R121).

Every operand of `Instr` has exactly the width of its field in the command word (rules R101–R105), so
that no term of `Instr` holds an operand its encoding cannot.
-/

namespace Sys2Proof

/-- The number of a general register `x0`–`x15`, a 4-bit field (R102). -/
abbrev Reg := BitVec 4

/-- The number of a matrix register `m0`–`m3`, a 2-bit field (R103). -/
abbrev MReg := BitVec 2

/-- A row index 0–31 of a matrix register, a 5-bit field (R104). -/
abbrev RowIx := BitVec 5

/-- The `dir` immediate: forward appends zero bits, inverse removes them (R104). -/
inductive Dir where
  | fwd
  | inv
deriving DecidableEq, Repr

/-- The 23 commands of the opcode map, operands in the order of its syntax column (R110). -/
inductive Instr where
  /-- `NOP` (R290) -/
  | nop
  /-- `LIL xd, imm16` (R291) -/
  | lil (rd : Reg) (imm16 : BitVec 16)
  /-- `LIH xd, imm16` (R292) -/
  | lih (rd : Reg) (imm16 : BitVec 16)
  /-- `XOR xd, xs1, xs2` (R293) -/
  | xor (rd rs1 rs2 : Reg)
  /-- `FIN xd, xs1` (R294) -/
  | fin (rd rs1 : Reg)
  /-- `CHKLEN xs1, xs2` (R295) -/
  | chklen (rs1 rs2 : Reg)
  /-- `UPD xd, xs1, xs2` (R143) -/
  | upd (rd rs1 rs2 : Reg)
  /-- `UPDI xd, xs1, byte` (R144) -/
  | updi (rd rs1 : Reg) (byte : Byte)
  /-- `TBL xd, xs1` (R145) -/
  | tbl (rd rs1 : Reg)
  /-- `MBASE md, dir` (R180) -/
  | mbase (md : MReg) (dir : Dir)
  /-- `MSQ md, ms` (R181) -/
  | msq (md ms : MReg)
  /-- `MAPPLY xd, ms, xs2` (R182) -/
  | mapply (rd : Reg) (ms : MReg) (rs2 : Reg)
  /-- `MPOW md, xs1, dir` (R183) -/
  | mpow (md : MReg) (rs1 : Reg) (dir : Dir)
  /-- `ZPAD xd, xs1, xs2, dir` (R184) -/
  | zpad (rd rs1 rs2 : Reg) (dir : Dir)
  /-- `MROW xd, ms, row` (R185) -/
  | mrow (rd : Reg) (ms : MReg) (row : RowIx)
  /-- `MSET md, xs1, row` (R186) -/
  | mset (md : MReg) (rs1 : Reg) (row : RowIx)
  /-- `ZCRC xd, xs1` (R212) -/
  | zcrc (rd rs1 : Reg)
  /-- `COMB xd, xs1, xs2, xs3` (R232) -/
  | comb (rd rs1 rs2 rs3 : Reg)
  /-- `TRIM xd, xs1, xs2, xs3` (R233) -/
  | trim (rd rs1 rs2 rs3 : Reg)
  /-- `ADVB xs1` (R263) -/
  | advb (rs1 : Reg)
  /-- `PEEL xd, xs1, xs2` (R265) -/
  | peel (rd rs1 rs2 : Reg)
  /-- `PEELI xd, xs1, byte` (R266) -/
  | peeli (rd rs1 : Reg) (byte : Byte)
  /-- `ADVR xd, xs1` (R267) -/
  | advr (rd rs1 : Reg)
deriving DecidableEq, Repr

/-- The mnemonics the assembler knows: the 23 commands (R110, R120) and then the ten
pseudo-instructions (R121). -/
inductive AsmOp where
  | nop | lil | lih | xor | fin | chklen
  | upd | updi | tbl
  | mbase | msq | mapply | mpow | zpad | mrow | mset
  | zcrc | comb | trim
  | advb | peel | peeli | advr
  | li | clr | mov | work | updz | hashi | hashb | mident | zpadf | zpadr
deriving DecidableEq, Repr

/-- One operand as the source line writes it: the number is whatever was written, in range or not
(R120). -/
inductive AsmArg where
  | x (n : Nat)
  | m (n : Nat)
  | num (n : Nat)
  | dir (d : Dir)
deriving DecidableEq, Repr

/-- What the syntax of a mnemonic asks for in one operand position (R120). -/
inductive ArgKind where
  | x | m | byte | row | imm16 | imm32 | dir
deriving DecidableEq, Repr

/-- One source line: a mnemonic and its operands (R120). -/
structure AsmLine where
  op : AsmOp
  args : List AsmArg
deriving DecidableEq, Repr

end Sys2Proof
end

