-- ==== Sys2Proof/Decode.lean ====
section
/-!
DEFINITION. The command decoder and the encoder, both written from the opcode map (rules R100–R112 of
spec/30_encoding.md).
-/

namespace Sys2Proof

/-- `w[31:24]`, the opcode (R101). -/
def opcodeOf (w : Word) : BitVec 8 := w.extractLsb' 24 8

/-- `rd = w[23:20]` (R102). -/
def rdOf (w : Word) : Reg := w.extractLsb' 20 4

/-- `rs1 = w[19:16]` (R102). -/
def rs1Of (w : Word) : Reg := w.extractLsb' 16 4

/-- `rs2 = w[15:12]` (R102). -/
def rs2Of (w : Word) : Reg := w.extractLsb' 12 4

/-- `rs3 = w[11:8]` (R102). -/
def rs3Of (w : Word) : Reg := w.extractLsb' 8 4

/-- `md = w[21:20]` (R103). -/
def mdOf (w : Word) : MReg := w.extractLsb' 20 2

/-- `ms = w[17:16]` (R103). -/
def msOf (w : Word) : MReg := w.extractLsb' 16 2

/-- `imm8 = w[7:0]`, read as a byte (R104). -/
def byteOf (w : Word) : Byte := w.extractLsb' 0 8

/-- `row = w[4:0]` (R104). -/
def rowOf (w : Word) : RowIx := w.extractLsb' 0 5

/-- `dir = w[0]`: 0 forward, 1 inverse (R104). -/
def dirOf (w : Word) : Dir := if w.getLsbD 0 then .inv else .fwd

/-- `imm16 = w[15:0]` (R101, R105). -/
def imm16Of (w : Word) : BitVec 16 := w.extractLsb' 0 16

/-- One row of the opcode map: its mask and match, and how its fields are read (R110). -/
structure OpcodeRow where
  mask : Word
  pattern : Word
  read : Word → Instr

/-- The opcode map of R110, row for row. -/
def opcodeMap : List OpcodeRow :=
  [ ⟨0xFFFFFFFF, 0x00000000, fun _ => .nop⟩,
    ⟨0xFF0F0000, 0x01000000, fun w => .lil (rdOf w) (imm16Of w)⟩,
    ⟨0xFF0F0000, 0x02000000, fun w => .lih (rdOf w) (imm16Of w)⟩,
    ⟨0xFF000FFF, 0x03000000, fun w => .xor (rdOf w) (rs1Of w) (rs2Of w)⟩,
    ⟨0xFF00FFFF, 0x04000000, fun w => .fin (rdOf w) (rs1Of w)⟩,
    ⟨0xFFF00FFF, 0x05000000, fun w => .chklen (rs1Of w) (rs2Of w)⟩,
    ⟨0xFF000FFF, 0x10000000, fun w => .upd (rdOf w) (rs1Of w) (rs2Of w)⟩,
    ⟨0xFF00FF00, 0x11000000, fun w => .updi (rdOf w) (rs1Of w) (byteOf w)⟩,
    ⟨0xFF00FFFF, 0x12000000, fun w => .tbl (rdOf w) (rs1Of w)⟩,
    ⟨0xFFCFFFFE, 0x20000000, fun w => .mbase (mdOf w) (dirOf w)⟩,
    ⟨0xFFCCFFFF, 0x21000000, fun w => .msq (mdOf w) (msOf w)⟩,
    ⟨0xFF0C0FFF, 0x22000000, fun w => .mapply (rdOf w) (msOf w) (rs2Of w)⟩,
    ⟨0xFFC0FFFE, 0x23000000, fun w => .mpow (mdOf w) (rs1Of w) (dirOf w)⟩,
    ⟨0xFF000FFE, 0x24000000, fun w => .zpad (rdOf w) (rs1Of w) (rs2Of w) (dirOf w)⟩,
    ⟨0xFF0CFFE0, 0x25000000, fun w => .mrow (rdOf w) (msOf w) (rowOf w)⟩,
    ⟨0xFFC0FFE0, 0x26000000, fun w => .mset (mdOf w) (rs1Of w) (rowOf w)⟩,
    ⟨0xFF00FFFF, 0x30000000, fun w => .zcrc (rdOf w) (rs1Of w)⟩,
    ⟨0xFF0000FF, 0x31000000, fun w => .comb (rdOf w) (rs1Of w) (rs2Of w) (rs3Of w)⟩,
    ⟨0xFF0000FF, 0x32000000, fun w => .trim (rdOf w) (rs1Of w) (rs2Of w) (rs3Of w)⟩,
    ⟨0xFFF0FFFF, 0x40000000, fun w => .advb (rs1Of w)⟩,
    ⟨0xFF000FFF, 0x41000000, fun w => .peel (rdOf w) (rs1Of w) (rs2Of w)⟩,
    ⟨0xFF00FF00, 0x42000000, fun w => .peeli (rdOf w) (rs1Of w) (byteOf w)⟩,
    ⟨0xFF00FFFF, 0x43000000, fun w => .advr (rdOf w) (rs1Of w)⟩ ]

/-- Why a word is illegal, the two kinds R111 lists. -/
inductive IllegalWord where
  /-- the opcode `w[31:24]` is none of the 23 of R110 -/
  | unassignedOpcode
  /-- the opcode is assigned, but a must-be-zero bit of its row is set -/
  | mustBeZero
deriving DecidableEq, Repr

/-- The word spells the row: `(w & mask) == match` (R110). -/
def OpcodeRow.spells (r : OpcodeRow) (w : Word) : Bool := (w &&& r.mask) == r.pattern

/-- The row's opcode is the word's. -/
def OpcodeRow.sharesOpcode (r : OpcodeRow) (w : Word) : Bool := opcodeOf r.pattern == opcodeOf w

/-- Decoding, total on every 32-bit word: the command of the row the word spells, or the reason it is
illegal (R110–R112). -/
def decode (w : Word) : Except IllegalWord Instr :=
  match opcodeMap.find? (fun r => r.spells w) with
  | some r => .ok (r.read w)
  | none => .error (if opcodeMap.any (fun r => r.sharesOpcode w) then .mustBeZero else .unassignedOpcode)

/-- The host's question: a table row of `nbits` bits whose bits are `w`; a command is one 32-bit word
and the bits above `nbits` are zero (R100). -/
def decodeTableWord (nbits w : Nat) : Option Instr :=
  (decode (BitVec.ofNat 32 (w % 2 ^ nbits))).toOption

/-- The `dir` bit: 0 forward, 1 inverse (R104). -/
def Dir.bit : Dir → BitVec 1
  | .fwd => 0#1
  | .inv => 1#1

/-- The command word, field by field from bit 31 down: the encoding column of R110. -/
def encode : Instr → Word
  | .nop => 0x00#8 ++ 0#24
  | .lil rd imm16 => 0x01#8 ++ rd ++ 0#4 ++ imm16
  | .lih rd imm16 => 0x02#8 ++ rd ++ 0#4 ++ imm16
  | .xor rd rs1 rs2 => 0x03#8 ++ rd ++ rs1 ++ rs2 ++ 0#12
  | .fin rd rs1 => 0x04#8 ++ rd ++ rs1 ++ 0#16
  | .chklen rs1 rs2 => 0x05#8 ++ 0#4 ++ rs1 ++ rs2 ++ 0#12
  | .upd rd rs1 rs2 => 0x10#8 ++ rd ++ rs1 ++ rs2 ++ 0#12
  | .updi rd rs1 byte => 0x11#8 ++ rd ++ rs1 ++ 0#8 ++ byte
  | .tbl rd rs1 => 0x12#8 ++ rd ++ rs1 ++ 0#16
  | .mbase md dir => 0x20#8 ++ 0#2 ++ md ++ 0#19 ++ dir.bit
  | .msq md ms => 0x21#8 ++ 0#2 ++ md ++ 0#2 ++ ms ++ 0#16
  | .mapply rd ms rs2 => 0x22#8 ++ rd ++ 0#2 ++ ms ++ rs2 ++ 0#12
  | .mpow md rs1 dir => 0x23#8 ++ 0#2 ++ md ++ rs1 ++ 0#15 ++ dir.bit
  | .zpad rd rs1 rs2 dir => 0x24#8 ++ rd ++ rs1 ++ rs2 ++ 0#11 ++ dir.bit
  | .mrow rd ms row => 0x25#8 ++ rd ++ 0#2 ++ ms ++ 0#11 ++ row
  | .mset md rs1 row => 0x26#8 ++ 0#2 ++ md ++ rs1 ++ 0#11 ++ row
  | .zcrc rd rs1 => 0x30#8 ++ rd ++ rs1 ++ 0#16
  | .comb rd rs1 rs2 rs3 => 0x31#8 ++ rd ++ rs1 ++ rs2 ++ rs3 ++ 0#8
  | .trim rd rs1 rs2 rs3 => 0x32#8 ++ rd ++ rs1 ++ rs2 ++ rs3 ++ 0#8
  | .advb rs1 => 0x40#8 ++ 0#4 ++ rs1 ++ 0#16
  | .peel rd rs1 rs2 => 0x41#8 ++ rd ++ rs1 ++ rs2 ++ 0#12
  | .peeli rd rs1 byte => 0x42#8 ++ rd ++ rs1 ++ 0#8 ++ byte
  | .advr rd rs1 => 0x43#8 ++ rd ++ rs1 ++ 0#16

end Sys2Proof
end

