-- ==== Sys2Proof/Config.lean ====
section
/-!
DEFINITION. The fixed parameters of the engine (rule R7 of spec/00_scope.md, rule R40 of
spec/10_state.md) and the one value the spec leaves open at every use (rule R76 of spec/20_memory.md).
-/

namespace Sys2Proof.Config

/-- `POLY`, the reflected polynomial, read at host address `0x14` (R7, R40). -/
def poly : Word := 0xEDB88320#32

/-- `INIT`, the CRC register before the first byte, working form (R7, R142). -/
def init : Word := 0xFFFFFFFF#32

/-- `XOROUT`, the final XOR between working and public form (R7, R34). -/
def xorOut : Word := 0xFFFFFFFF#32

/-- `INVPOLY`, the un-polynomial of the inverse bit step (R7, R171). -/
def invPoly : Word := 0xDB710641#32

/-- `MAXLEN`, the byte-length ceiling, read at host address `0x15` (R7, R40). -/
def maxLen : Word := 0x1FFFFFFF#32

/-- The seed of the zero-run oracle, `hash([0x00])` (R210). -/
def zeroByteCrc : Word := 0xD202EF8D#32

/-- FREE VALUE (assumption 4). What the port answers to the n-th read of X0–X15, ERRCMD or ADVS that
falls while `BUSY = 1`: R76 calls it an unspecified 32-bit value, "a free draw". It has no body, so
nothing can be proved of it. -/
opaque busyRead : Nat → Word

end Sys2Proof.Config
end

