-- ==== Sys2Proof/Machine/State.lean ====
section
/-!
DEFINITION. The state of the engine (rules R31–R42 of spec/10_state.md), what its environment does to it
(rules R30, R361), the ways a step can stop, and reset (rule R360 of spec/70_reset_and_hazards.md).
-/

namespace Sys2Proof.Machine

/-- The error codes of STATUS.ERR that the engine produces (R320). Codes 6–15 are "never produced" and
have no constructor. -/
inductive ErrCode where
  /-- 0, no error since the last clear -/
  | noError
  /-- 1, the command word matches no row of the opcode map -/
  | illegal
  /-- 2, prefix length ≥ target size -/
  | invalidInput
  /-- 3, a byte length above MAXLEN -/
  | lengthDomain
  /-- 4, the advance table is read while ADV_VALID = 0 -/
  | advNotBuilt
  /-- 5, a write to CMD or X0–X15 while BUSY = 1 -/
  | overrun
deriving DecidableEq, Repr

/-- One event of the schedule: a step of the host, a step of the engine, or reset (R30, R361). -/
inductive Event where
  /-- the host reads the word at an address of the port -/
  | read (addr : HostAddr)
  /-- the host writes a word to an address of the port -/
  | write (addr : HostAddr) (v : Word)
  /-- the engine takes its step now: it completes the command in flight, if there is one -/
  | engine
  /-- the reset input of the engine -/
  | reset
deriving DecidableEq, Repr

/-- Every piece of state the spec gives the engine (R42: there is no other), and then three fields of
the model's own that stand for its environment. -/
structure State where
  /-- the general registers `x[0]`–`x[15]` (R31) -/
  x : Vector Word 16
  /-- the matrix registers `m[0]`–`m[3]` (R32) -/
  m : Vector BitMatrix32 4
  /-- the advance-table RAM `ADV`, 256 entries (R35) -/
  adv : Vector Word 256
  /-- STATUS.BUSY: a command is in flight (R37, R41) -/
  busy : Bool
  /-- STATUS.ADV_VALID: the advance table is built (R35, R37) -/
  advValid : Bool
  /-- STATUS.ERR: the first error since the last clear (R37, R320) -/
  err : ErrCode
  /-- ERRCMD: the word recorded with the error (R38) -/
  errcmd : Word
  /-- ADVS: the target size the advance table was built for (R39) -/
  advs : Word
  /-- PEND: the command word accepted and not yet completed (R41) -/
  pend : Word
  /-- THE MODEL'S OWN (assumption 5): the word that the host's last port read returned -/
  rdata : Word
  /-- THE MODEL'S OWN (assumption 4): how many free values `Config.busyRead` have been drawn -/
  draws : Nat
  /-- THE MODEL'S OWN (assumption 1): the events still to come, in the order they take effect (R82) -/
  schedule : List Event
deriving DecidableEq, Repr

/-- Why the machine stops. -/
inductive Fault where
  /-- Raised by the engine's step when `BUSY = 1` and PEND is no command word. No issue puts such a word
  into PEND (R80), so no run from reset reaches it. SAFE: the model stops where the spec says nothing
  (DESIGN CHOICE, assumption 8). -/
  | pendNotACommand
deriving DecidableEq, Repr

/-- Why a meaning is not given. -/
inductive Refusal where
  /-- Raised by an arm of `exec` for a command that has no meaning yet. No arm is left. SAFE: the model
  stops. -/
  | notModelled (mnemonic : String)
deriving DecidableEq, Repr

/-- The machine right after reset (R360). ADV and PEND are unspecified there: they hold zeros here
(DESIGN CHOICE, assumptions 2 and 3). The three fields of the model's own are empty. -/
def State.reset : State where
  x := Vector.replicate 16 0#32
  m := Vector.replicate 4 (Vector.replicate 32 0#32)
  adv := Vector.replicate 256 0#32
  busy := false
  advValid := false
  err := .noError
  errcmd := 0#32
  advs := 0#32
  pend := 0#32
  rdata := 0#32
  draws := 0
  schedule := []

end Sys2Proof.Machine
end

