-- ==== Sys2Proof/Machine/Flags.lean ====
section
/-!
DEFINITION. The STATUS register: its word, made of the fields the state holds, and the error codes
(rule R37 of spec/10_state.md, rule R320 of spec/60_exceptions.md). The engine has no other flag (R41).
-/

namespace Sys2Proof.Machine

/-- The four bits STATUS[7:4] of an error (R320). -/
def ErrCode.code : ErrCode → BitVec 4
  | .noError => 0#4
  | .illegal => 1#4
  | .invalidInput => 2#4
  | .lengthDomain => 3#4
  | .advNotBuilt => 4#4
  | .overrun => 5#4

/-- STATUS as the host reads it (R37): bits 31:8 and 3:2 hardwired 0, ERR in 7:4, ADV_VALID in 1, BUSY
in 0. -/
def State.status (s : State) : Word :=
  0#24 ++ s.err.code ++ 0#2 ++ BitVec.ofBool s.advValid ++ BitVec.ofBool s.busy

end Sys2Proof.Machine
end

