-- ==== Sys2Proof/Machine/Operands.lean ====
section
/-!
DEFINITION. The operands of the commands: general registers, matrix registers and their rows, bytes and
immediates (rules R9, R31, R32 and R102–R105).
-/

namespace Sys2Proof.Machine

/-- `x[r]` (R9, R31). -/
def State.readX (s : State) (r : Reg) : Word := s.x[r.toNat]'r.isLt

/-- `x[r] <- v` (R9, R31). None is hardwired. -/
def State.writeX (s : State) (r : Reg) (v : Word) : State := { s with x := s.x.set r.toNat v r.isLt }

/-- `m[j]` as a whole (R9, R32). -/
def State.readM (s : State) (j : MReg) : BitMatrix32 := s.m[j.toNat]'j.isLt

/-- `m[j] <- M`, all 32 rows at once (R9, R32). -/
def State.writeM (s : State) (j : MReg) (M : BitMatrix32) : State :=
  { s with m := s.m.set j.toNat M j.isLt }

/-- `M.row[k]` (R9, R170). -/
def getRow (M : BitMatrix32) (k : RowIx) : Word := M[k.toNat]'k.isLt

/-- `M` with `row[k]` replaced (R186). -/
def setRow (M : BitMatrix32) (k : RowIx) (v : Word) : BitMatrix32 := M.set k.toNat v k.isLt

/-- `MemRead(ADV, i, 4)`: one entry of the advance-table RAM (R9, R35). -/
def State.readAdv (s : State) (i : Byte) : Word := s.adv[i.toNat]'i.isLt

/-- `v[7:0]`: the byte a register operand gives; bits 31:8 are ignored (R143, R145, R265, R267). -/
def lowByte (v : Word) : Byte := v.extractLsb' 0 8

/-- `zext_32` of a byte (R9, R104). -/
def zextByte (b : Byte) : Word := b.setWidth 32

/-- `zext_32` of a 16-bit immediate (R9, R105). -/
def zextImm16 (i : BitVec 16) : Word := i.setWidth 32

/-- `v[15:0]`, zero-extended: the half that LIH keeps (R292). -/
def lowHalf (v : Word) : Word := (v.extractLsb' 0 16).setWidth 32

end Sys2Proof.Machine
end

