-- ==== Sys2Proof/Machine/Ops.lean ====
section
/-!
DEFINITION. The shared operations of the command lifecycle: raising an error and clearing it (rules
R326, R327 of spec/60_exceptions.md), the operand checks at issue (rules R322, R323), acceptance and
completion (rules R80, R81 of spec/20_memory.md), and the one operation every command's meaning is an
application of.
-/

namespace Sys2Proof.Machine

/-- The event at the head of the schedule has taken effect (R82: events take effect one at a time, in
order). With nothing scheduled it changes nothing. -/
def State.retire (s : State) : State := { s with schedule := s.schedule.tail }

/-- RAISING AN ERROR (R326): ERR and ERRCMD take the code and the word, if ERR was 0; nothing else. There
is no handler, vector, mode or return address. -/
def State.raise (s : State) (e : ErrCode) (w : Word) : State :=
  if s.err = .noError then { s with err := e, errcmd := w } else s

/-- LEAVING THE ERROR (R327): `ERR <- 0`, `ERRCMD <- 0`; nothing else. -/
def State.clearError (s : State) : State := { s with err := .noError, errcmd := 0#32 }

/-- Step 5 of R80: `PEND <- w`, `BUSY <- 1`. -/
def State.accept (s : State) (w : Word) : State := { s with pend := w, busy := true }

/-- The end of R81: `BUSY <- 0`. -/
def State.finish (s : State) : State := { s with busy := false }

/-- LENGTH_DOMAIN when a byte length exceeds MAXLEN (R320, R321). -/
def lengthCheck (len : Word) : Option ErrCode :=
  if Config.maxLen < len then some .lengthDomain else none

/-- INVALID_INPUT when `p ≥ S`, then LENGTH_DOMAIN when `S > MAXLEN` (R295, R323). -/
def prefixCheck (p S : Word) : Option ErrCode :=
  if S ≤ p then some .invalidInput else lengthCheck S

/-- ADV_NOT_BUILT when the advance table is to be read while `ADV_VALID = 0` (R264). -/
def builtCheck (advValid : Bool) : Option ErrCode :=
  if advValid then none else some .advNotBuilt

/-- Step 4 of R80: each command's own checks against the state at issue, the table of R322. -/
def issueCheck (i : Instr) (s : State) : Option ErrCode :=
  match i with
  | .nop => none
  | .lil _ _ => none
  | .lih _ _ => none
  | .xor _ _ _ => none
  | .fin _ _ => none
  | .chklen rs1 rs2 => prefixCheck (s.readX rs1) (s.readX rs2)
  | .upd _ _ _ => none
  | .updi _ _ _ => none
  | .tbl _ _ => none
  | .mbase _ _ => none
  | .msq _ _ => none
  | .mapply _ _ _ => none
  | .mpow _ _ _ => none
  | .zpad _ _ _ _ => none
  | .mrow _ _ _ => none
  | .mset _ _ _ => none
  | .zcrc _ rs1 => lengthCheck (s.readX rs1)
  | .comb _ _ _ rs3 => lengthCheck (s.readX rs3)
  | .trim _ _ _ _ => none
  | .advb rs1 => lengthCheck (s.readX rs1)
  | .peel _ _ _ => builtCheck s.advValid
  | .peeli _ _ _ => builtCheck s.advValid
  | .advr _ _ => builtCheck s.advValid

/-- Steps 4 and 5 of R80, for a word that spells `i`, with `BUSY = 0` and `ERR = 0` (steps 1–3 are the
port's, Machine/Port.lean): an error of the command's own is raised, or the word is accepted. The word
is `encode i`, the only one that spells `i` (DEDUCED, assumption 6). -/
def issue (i : Instr) (s : State) : State :=
  match issueCheck i s with
  | some e => s.raise e (encode i)
  | none => s.accept (encode i)

/-- THE LIFE OF A COMMAND in the two steps the spec gives it: with `BUSY = 0` it is issued (R80), with
`BUSY = 1` it is the command in flight and completes: its effect, which reads every source in the state
before (R10), and then `BUSY <- 0` (R81). Either step retires the event that caused it. The checks are not
made again at completion (R81; DEDUCED, assumption 9, for the states no run reaches). -/
def command (i : Instr) (effect : State → State) (s : State) : Host.Outcome State Fault Refusal :=
  if s.busy then .next (effect s).finish.retire else .next (issue i s).retire

end Sys2Proof.Machine
end

