-- ==== Sys2Proof/Machine/CrcUpdate.lean ====
section
/-!
DEFINITION. The CRC update engine: the CRC ROM (rule R33 of spec/10_state.md), the update and hash
functions, and the commands UPD, UPDI and TBL (spec/40_crc_update.md).
-/

namespace Sys2Proof.Machine

/-- One round of the construction of the CRC ROM (R33). -/
def romRound (c : Word) : Word := if c.getLsbD 0 then (c >>> 1) ^^^ Config.poly else c >>> 1

/-- `MemRead(TBL, i, 4)`: one entry of the CRC ROM, by the construction of R33, which the spec marks as
general knowledge (assumption 10). The ROM is a constant, not state (R43). -/
def tblEntry (i : Byte) : Word := Nat.repeat romRound 8 (zextByte i)

/-- `upd(r, b)`: one table-driven byte step of the working-form register (R141). -/
def upd (r : Word) (b : Byte) : Word := tblEntry (lowByte (r ^^^ zextByte b)) ^^^ (r >>> 8)

/-- `w(s)`: the working-form register after the bytes of `s` have been fed to INIT (R142, R262). -/
def working (s : List Byte) : Word := s.foldl upd Config.init

/-- `hash(s)`: the public-form CRC-32 of a byte string (R142). -/
def crcHash (s : List Byte) : Word := working s ^^^ Config.xorOut

/-- UPD (R143): `x[rd] <- upd(x[rs1], x[rs2][7:0])`. -/
def execUpd (rd rs1 rs2 : Reg) (s : State) : Host.Outcome State Fault Refusal :=
  command (.upd rd rs1 rs2) (fun s => s.writeX rd (upd (s.readX rs1) (lowByte (s.readX rs2)))) s

/-- UPDI (R144): `x[rd] <- upd(x[rs1], imm8)`. -/
def execUpdi (rd rs1 : Reg) (byte : Byte) (s : State) : Host.Outcome State Fault Refusal :=
  command (.updi rd rs1 byte) (fun s => s.writeX rd (upd (s.readX rs1) byte)) s

/-- TBL (R145): `x[rd] <- MemRead(TBL, x[rs1][7:0], 4)`. -/
def execTbl (rd rs1 : Reg) (s : State) : Host.Outcome State Fault Refusal :=
  command (.tbl rd rs1) (fun s => s.writeX rd (tblEntry (lowByte (s.readX rs1)))) s

end Sys2Proof.Machine
end

