-- ==== Sys2Proof/Machine/Gf2Operator.lean ====
section
/-!
DEFINITION. The GF(2) operator engine: the bit steps, the matrix functions and the zero-padding
operator, and the commands MBASE, MSQ, MAPPLY, MPOW, ZPAD, MROW and MSET (spec/41_gf2_operator.md).
-/

namespace Sys2Proof.Machine

/-- `fwd1(c)`: append one zero bit (R171). -/
def fwd1 (c : Word) : Word := (c >>> 1) ^^^ (if c.getLsbD 0 then Config.poly else 0#32)

/-- `inv1(c)`: remove one zero bit (R171). -/
def inv1 (c : Word) : Word := (c <<< 1) ^^^ (if c.getLsbD 31 then Config.invPoly else 0#32)

/-- The one-zero-bit step of a direction (R171, R174). -/
def bitStep : Dir → Word → Word
  | .fwd => fwd1
  | .inv => inv1

/-- The basis vector that row `k` of a matrix belongs to: only bit `31−k` is set (R170). -/
def basisVector (k : Fin 32) : Word := 1#32 <<< (31 - k.val)

/-- `Apply(M, v)`: the XOR of the rows `M.row[k]` over the `k` with `v[31−k] == 1` (R172). -/
def gfApply (M : BitMatrix32) (v : Word) : Word :=
  (List.finRange 32).foldr (fun k acc => (if v.getLsbD (31 - k.val) then M[k] else 0#32) ^^^ acc) 0#32

/-- `Mul(A, B)`: row `k` is `Apply(A, B.row[k])`; first B, then A (R173). -/
def gfMul (A B : BitMatrix32) : BitMatrix32 := Vector.ofFn fun k => gfApply A B[k]

/-- `Square(M) = Mul(M, M)` (R173). -/
def gfSquare (M : BitMatrix32) : BitMatrix32 := gfMul M M

/-- The identity matrix `I` (R173). -/
def gfIdentity : BitMatrix32 := Vector.ofFn basisVector

/-- `Base(dir)`: the matrix of the one-zero-bit step (R174). -/
def gfBase (dir : Dir) : BitMatrix32 := Vector.ofFn fun k => bitStep dir (basisVector k)

/-- `Pow(dir, n)`: the operator for `n` zero bits, by binary exponentiation over the bits 0..31 of `n`;
the pair is `(acc, cur)` (R175). -/
def gfPow (dir : Dir) (n : Word) : BitMatrix32 :=
  ((List.range 32).foldl
    (fun (p : BitMatrix32 × BitMatrix32) k =>
      (if n.getLsbD k then gfMul p.2 p.1 else p.1, gfSquare p.2))
    (gfIdentity, gfBase dir)).1

/-- The loop of R176 over the bit positions still to come, `cur` being the operator for `2^k` bits. -/
def zeroPadLoop (n : Word) : List Nat → BitMatrix32 → Word → Word
  | [], _, v => v
  | k :: ks, cur, v =>
    let v' := if n.getLsbD k then gfApply cur v else v
    if n >>> (k + 1) = 0#32 then v' else zeroPadLoop n ks (gfSquare cur) v'

/-- `ZeroPad(v, n, dir)`: the zero-padding operator for `n` bits applied to `v` (R176). -/
def zeroPad (v n : Word) (dir : Dir) : Word :=
  if n = 0#32 then v else zeroPadLoop n (List.range 32) (gfBase dir) v

/-- MBASE (R180): `m[md] <- Base(dir)`. -/
def execMbase (md : MReg) (dir : Dir) (s : State) : Host.Outcome State Fault Refusal :=
  command (.mbase md dir) (fun s => s.writeM md (gfBase dir)) s

/-- MSQ (R181): `m[md] <- Square(m[ms])`. -/
def execMsq (md ms : MReg) (s : State) : Host.Outcome State Fault Refusal :=
  command (.msq md ms) (fun s => s.writeM md (gfSquare (s.readM ms))) s

/-- MAPPLY (R182): `x[rd] <- Apply(m[ms], x[rs2])`. -/
def execMapply (rd : Reg) (ms : MReg) (rs2 : Reg) (s : State) : Host.Outcome State Fault Refusal :=
  command (.mapply rd ms rs2) (fun s => s.writeX rd (gfApply (s.readM ms) (s.readX rs2))) s

/-- MPOW (R183): `m[md] <- Pow(dir, x[rs1])`. -/
def execMpow (md : MReg) (rs1 : Reg) (dir : Dir) (s : State) : Host.Outcome State Fault Refusal :=
  command (.mpow md rs1 dir) (fun s => s.writeM md (gfPow dir (s.readX rs1))) s

/-- ZPAD (R184): `x[rd] <- ZeroPad(x[rs1], x[rs2], dir)`. -/
def execZpad (rd rs1 rs2 : Reg) (dir : Dir) (s : State) : Host.Outcome State Fault Refusal :=
  command (.zpad rd rs1 rs2 dir) (fun s => s.writeX rd (zeroPad (s.readX rs1) (s.readX rs2) dir)) s

/-- MROW (R185): `x[rd] <- m[ms].row[row]`. -/
def execMrow (rd : Reg) (ms : MReg) (row : RowIx) (s : State) : Host.Outcome State Fault Refusal :=
  command (.mrow rd ms row) (fun s => s.writeX rd (getRow (s.readM ms) row)) s

/-- MSET (R186): `m[md].row[row] <- x[rs1]`; the other 31 rows are unchanged. -/
def execMset (md : MReg) (rs1 : Reg) (row : RowIx) (s : State) : Host.Outcome State Fault Refusal :=
  command (.mset md rs1 row) (fun s => s.writeM md (setRow (s.readM md) row (s.readX rs1))) s

end Sys2Proof.Machine
end

