-- ==== Sys2Proof/Machine/CombineTrim.lean ====
section
/-!
DEFINITION. The Combine/Trim algebra and the commands COMB and TRIM (spec/43_combine_trim.md).
-/

namespace Sys2Proof.Machine

/-- `8·L`: a byte length as a bit length (R230, R237); no overflow for `L ≤ MAXLEN`. -/
def bitLength (L : Word) : Word := 8#32 * L

/-- `Combine(a, b, L)` on public-form CRCs, `L` in bytes (R230). -/
def crcCombine (a b L : Word) : Word :=
  if L = 0#32 then a else zeroPad a (bitLength L) .fwd ^^^ b

/-- `Trim(x, y, n)` on public-form CRCs, `n` in bits (R231). -/
def crcTrim (x y n : Word) : Word :=
  if n = 0#32 then x else zeroPad (x ^^^ y) n .inv

/-- COMB (R232): LENGTH_DOMAIN at issue if `x[rs3] > MAXLEN` (`issueCheck`); at completion
`x[rd] <- Combine(x[rs1], x[rs2], x[rs3])`. -/
def execComb (rd rs1 rs2 rs3 : Reg) (s : State) : Host.Outcome State Fault Refusal :=
  command (.comb rd rs1 rs2 rs3)
    (fun s => s.writeX rd (crcCombine (s.readX rs1) (s.readX rs2) (s.readX rs3))) s

/-- TRIM (R233): `x[rd] <- Trim(x[rs1], x[rs2], x[rs3])`. -/
def execTrim (rd rs1 rs2 rs3 : Reg) (s : State) : Host.Outcome State Fault Refusal :=
  command (.trim rd rs1 rs2 rs3)
    (fun s => s.writeX rd (crcTrim (s.readX rs1) (s.readX rs2) (s.readX rs3))) s

end Sys2Proof.Machine
end

