-- ==== Sys2Proof/Machine/ZeroRun.lean ====
section
/-!
DEFINITION. The zero-run oracle and the command ZCRC (spec/42_zero_run_oracle.md).
-/

namespace Sys2Proof.Machine

/-- `Oracle(L)`: the public-form CRC-32 of `L` zero bytes, by doubling over the bit positions 0..28 of
`L`; the pair is `(acc, blk)` (R210). -/
def oracle (L : Word) : Word :=
  if L = 0#32 then 0#32
  else
    ((List.range 29).foldl
      (fun (p : Word × Word) k =>
        (if L.getLsbD k then crcCombine p.1 p.2 (1#32 <<< k) else p.1, crcCombine p.2 p.2 (1#32 <<< k)))
      (0#32, Config.zeroByteCrc)).1

/-- ZCRC (R212): LENGTH_DOMAIN at issue if `x[rs1] > MAXLEN` (`issueCheck`); at completion
`x[rd] <- Oracle(x[rs1])`. -/
def execZcrc (rd rs1 : Reg) (s : State) : Host.Outcome State Fault Refusal :=
  command (.zcrc rd rs1) (fun s => s.writeX rd (oracle (s.readX rs1))) s

end Sys2Proof.Machine
end

