-- ==== Sys2Proof/Machine/AdvanceTable.lean ====
section
/-!
DEFINITION. The prefix advance table and the commands ADVB, PEEL, PEELI and ADVR
(spec/44_advance_table.md).
-/

namespace Sys2Proof.Machine

/-- `AdvEntry(S, b)`: the entry for target size `S` in bytes and byte value `b` (R260). -/
def advEntry (S : Word) (b : Byte) : Word := crcCombine (crcHash [b]) (oracle S) S ^^^ oracle S

/-- The 256 entries for target size `S` (R263). -/
def advTable (S : Word) : Vector Word 256 := Vector.ofFn fun b => advEntry S (BitVec.ofNat 8 b.val)

/-- The completion of ADVB (R263): all 256 entries for `S`, `ADVS <- S`, `ADV_VALID <- 1`. -/
def State.buildAdv (s : State) (S : Word) : State :=
  { s with adv := advTable S, advs := S, advValid := true }

/-- `Peel(r, b)`: one peel step with the table the state holds (R261). -/
def State.peelStep (s : State) (r : Word) (b : Byte) : Word := upd r 0x00#8 ^^^ s.readAdv b

/-- ADVB (R263): LENGTH_DOMAIN at issue if `x[rs1] > MAXLEN` (`issueCheck`); at completion the table for
`S = x[rs1]` is built. -/
def execAdvb (rs1 : Reg) (s : State) : Host.Outcome State Fault Refusal :=
  command (.advb rs1) (fun s => s.buildAdv (s.readX rs1)) s

/-- PEEL (R265): ADV_NOT_BUILT at issue if `ADV_VALID = 0` (`issueCheck`); at completion
`x[rd] <- Peel(x[rs1], x[rs2][7:0])`. -/
def execPeel (rd rs1 rs2 : Reg) (s : State) : Host.Outcome State Fault Refusal :=
  command (.peel rd rs1 rs2)
    (fun s => s.writeX rd (s.peelStep (s.readX rs1) (lowByte (s.readX rs2)))) s

/-- PEELI (R266): ADV_NOT_BUILT at issue if `ADV_VALID = 0` (`issueCheck`); at completion
`x[rd] <- Peel(x[rs1], imm8)`. -/
def execPeeli (rd rs1 : Reg) (byte : Byte) (s : State) : Host.Outcome State Fault Refusal :=
  command (.peeli rd rs1 byte) (fun s => s.writeX rd (s.peelStep (s.readX rs1) byte)) s

/-- ADVR (R267): ADV_NOT_BUILT at issue if `ADV_VALID = 0` (`issueCheck`); at completion
`x[rd] <- MemRead(ADV, x[rs1][7:0], 4)`. -/
def execAdvr (rd rs1 : Reg) (s : State) : Host.Outcome State Fault Refusal :=
  command (.advr rd rs1) (fun s => s.writeX rd (s.readAdv (lowByte (s.readX rs1)))) s

end Sys2Proof.Machine
end

