-- ==== Sys2Proof/Machine/Glue.lean ====
section
/-!
DEFINITION. The register and check commands NOP, LIL, LIH, XOR, FIN and CHKLEN (spec/45_glue.md).
-/

namespace Sys2Proof.Machine

/-- NOP (R290): no register changes. -/
def execNop (s : State) : Host.Outcome State Fault Refusal :=
  command .nop (fun s => s) s

/-- LIL (R291): `x[rd] <- zext_32(imm16)`. -/
def execLil (rd : Reg) (imm16 : BitVec 16) (s : State) : Host.Outcome State Fault Refusal :=
  command (.lil rd imm16) (fun s => s.writeX rd (zextImm16 imm16)) s

/-- LIH (R292): `x[rd] <- (zext_32(imm16) << 16) | x[rd][15:0]`. -/
def execLih (rd : Reg) (imm16 : BitVec 16) (s : State) : Host.Outcome State Fault Refusal :=
  command (.lih rd imm16) (fun s => s.writeX rd ((zextImm16 imm16 <<< 16) ||| lowHalf (s.readX rd))) s

/-- XOR (R293): `x[rd] <- x[rs1] ⊕ x[rs2]`. -/
def execXor (rd rs1 rs2 : Reg) (s : State) : Host.Outcome State Fault Refusal :=
  command (.xor rd rs1 rs2) (fun s => s.writeX rd (s.readX rs1 ^^^ s.readX rs2)) s

/-- FIN (R294): `x[rd] <- x[rs1] ⊕ 0xFFFFFFFF`. -/
def execFin (rd rs1 : Reg) (s : State) : Host.Outcome State Fault Refusal :=
  command (.fin rd rs1) (fun s => s.writeX rd (s.readX rs1 ^^^ Config.xorOut)) s

/-- CHKLEN (R295): its checks are made at issue (`issueCheck`); at completion nothing. -/
def execChklen (rs1 rs2 : Reg) (s : State) : Host.Outcome State Fault Refusal :=
  command (.chklen rs1 rs2) (fun s => s) s

end Sys2Proof.Machine
end

