-- ==== Sys2Proof/Machine/Dispatch.lean ====
section
/-! DEFINITION. The dispatch: each command's meaning, one arm per constructor (rule R110). -/

namespace Sys2Proof.Machine

def exec (i : Instr) (s : State) : Host.Outcome State Fault Refusal :=
  match i with
  | .nop => Sys2Proof.Machine.execNop s
  | .lil rd imm16 => Sys2Proof.Machine.execLil rd imm16 s
  | .lih rd imm16 => Sys2Proof.Machine.execLih rd imm16 s
  | .xor rd rs1 rs2 => Sys2Proof.Machine.execXor rd rs1 rs2 s
  | .fin rd rs1 => Sys2Proof.Machine.execFin rd rs1 s
  | .chklen rs1 rs2 => Sys2Proof.Machine.execChklen rs1 rs2 s
  | .upd rd rs1 rs2 => Sys2Proof.Machine.execUpd rd rs1 rs2 s
  | .updi rd rs1 byte => Sys2Proof.Machine.execUpdi rd rs1 byte s
  | .tbl rd rs1 => Sys2Proof.Machine.execTbl rd rs1 s
  | .mbase md dir => Sys2Proof.Machine.execMbase md dir s
  | .msq md ms => Sys2Proof.Machine.execMsq md ms s
  | .mapply rd ms rs2 => Sys2Proof.Machine.execMapply rd ms rs2 s
  | .mpow md rs1 dir => Sys2Proof.Machine.execMpow md rs1 dir s
  | .zpad rd rs1 rs2 dir => Sys2Proof.Machine.execZpad rd rs1 rs2 dir s
  | .mrow rd ms row => Sys2Proof.Machine.execMrow rd ms row s
  | .mset md rs1 row => Sys2Proof.Machine.execMset md rs1 row s
  | .zcrc rd rs1 => Sys2Proof.Machine.execZcrc rd rs1 s
  | .comb rd rs1 rs2 rs3 => Sys2Proof.Machine.execComb rd rs1 rs2 rs3 s
  | .trim rd rs1 rs2 rs3 => Sys2Proof.Machine.execTrim rd rs1 rs2 rs3 s
  | .advb rs1 => Sys2Proof.Machine.execAdvb rs1 s
  | .peel rd rs1 rs2 => Sys2Proof.Machine.execPeel rd rs1 rs2 s
  | .peeli rd rs1 byte => Sys2Proof.Machine.execPeeli rd rs1 byte s
  | .advr rd rs1 => Sys2Proof.Machine.execAdvr rd rs1 s

end Sys2Proof.Machine
end

