-- ==== Sys2Proof/Machine/Port.lean ====
section
/-!
DEFINITION. The host port and the turn of each agent (spec/20_memory.md, rules R71–R77, R80, R81;
spec/60_exceptions.md, rules R323–R327; rule R361 of spec/70_reset_and_hazards.md).
-/

namespace Sys2Proof.Machine

/-- What a port address names (R71). -/
inductive PortReg where
  /-- `0x00`–`0x0F`, a general register -/
  | x (r : Reg)
  /-- `0x10` -/
  | cmd
  /-- `0x11` -/
  | status
  /-- `0x12` -/
  | errcmd
  /-- `0x13` -/
  | advs
  /-- `0x14` -/
  | poly
  /-- `0x15` -/
  | maxLen
  /-- `0x16`–`0xFF` -/
  | reserved
deriving DecidableEq, Repr

/-- The host address map (R71). -/
def portReg (a : HostAddr) : PortReg :=
  if a < 0x10#8 then .x (a.setWidth 4)
  else if a = 0x10#8 then .cmd
  else if a = 0x11#8 then .status
  else if a = 0x12#8 then .errcmd
  else if a = 0x13#8 then .advs
  else if a = 0x14#8 then .poly
  else if a = 0x15#8 then .maxLen
  else .reserved

/-- The word reaches the host (assumption 5). -/
def State.answer (s : State) (v : Word) : State := { s with rdata := v }

/-- A read of X0–X15, ERRCMD or ADVS: the register with `BUSY = 0` (R72, R75), an unspecified word with
`BUSY = 1` (R76: a free value, a fresh one at each such read). -/
def State.answerIfIdle (s : State) (v : Word) : State :=
  if s.busy then { s with rdata := Config.busyRead s.draws, draws := s.draws + 1 } else s.answer v

/-- A host read (R71–R77). It changes nothing of the engine. -/
def hostRead (a : HostAddr) (s : State) : State :=
  match portReg a with
  | .x r => s.answerIfIdle (s.readX r)
  | .cmd => s.answer 0#32
  | .status => s.answer s.status
  | .errcmd => s.answerIfIdle s.errcmd
  | .advs => s.answerIfIdle s.advs
  | .poly => s.answer Config.poly
  | .maxLen => s.answer Config.maxLen
  | .reserved => s.answer 0#32

/-- What a step does: it settles the state by itself, it runs a command, or it stops. -/
inductive Action where
  | settle (s : State)
  | run (i : Instr)
  | stop (f : Fault)
deriving DecidableEq, Repr

/-- Steps 1–3 of R80 for a write of `w` to CMD: OVERRUN while `BUSY = 1`, dropped while `ERR ≠ 0`,
ILLEGAL if the word spells no command; else the command is issued. -/
def issueWord (w : Word) (s : State) : Action :=
  if s.busy then .settle (s.raise .overrun w).retire
  else if s.err ≠ .noError then .settle s.retire
  else
    match decode w with
    | .error _ => .settle (s.raise .illegal w).retire
    | .ok i => .run i

/-- A host write (R71–R77). While `BUSY = 1` a write to X0–X15 is discarded and raises OVERRUN with
ERRCMD 0 (R76, R324); a write to STATUS clears the error at any time and its value is ignored (R74); a
write to a read-only or reserved address is ignored (R75). -/
def hostWrite (a : HostAddr) (v : Word) (s : State) : Action :=
  match portReg a with
  | .x r => .settle (if s.busy then s.raise .overrun 0#32 else s.writeX r v).retire
  | .cmd => issueWord v s
  | .status => .settle s.clearError.retire
  | .errcmd => .settle s.retire
  | .advs => .settle s.retire
  | .poly => .settle s.retire
  | .maxLen => .settle s.retire
  | .reserved => .settle s.retire

/-- The engine's turn (R30, R81): it completes the command in flight; with `BUSY = 0` it has no step. -/
def engineTurn (s : State) : Action :=
  if s.busy then
    match decode s.pend with
    | .ok i => .run i
    | .error _ => .stop .pendNotACommand
  else .settle s.retire

/-- The reset event (R360, R361): every piece of the engine's state as after reset, a command in flight
abandoned. What belongs to the environment stays (DESIGN CHOICE, assumption 12). -/
def State.powerOn (s : State) : State :=
  { State.reset with rdata := s.rdata, draws := s.draws, schedule := s.schedule }

/-- Whose turn it is and what the step does (R30, R82): the event at the head of the schedule. With
nothing scheduled the host does no more and the engine completes what is in flight (weak fairness;
DESIGN CHOICE, assumption 1). -/
def nextAction (s : State) : Action :=
  match s.schedule with
  | [] => engineTurn s
  | .engine :: _ => engineTurn s
  | .read a :: _ => .settle (hostRead a s).retire
  | .write a v :: _ => hostWrite a v s
  | .reset :: _ => .settle s.powerOn.retire

/-- The word is issued to an idle engine without error: the write to CMD is the next event, and if the
command's checks pass it has already been accepted, so that the next step is the last one of the
command's life: its completion, or the error that is all it does. -/
def State.loadCommand (s : State) (w : Word) : State :=
  let atPort := { s with busy := false, err := .noError, errcmd := 0#32, schedule := [.write 0x10#8 w] }
  match decode w with
  | .error _ => atPort
  | .ok i => if issueCheck i atPort = none then (atPort.accept w).retire else atPort

end Sys2Proof.Machine
end

