-- ==== Sys2Proof/Machine/Step.lean ====
section
/-! DEFINITION. One step of the machine (rule R30 of spec/10_state.md). -/

namespace Sys2Proof.Machine

/-- One step: of the host, of the engine or of reset, as the schedule says (R30, R82). -/
def step (s : State) : Host.Outcome State Fault Refusal :=
  match nextAction s with
  | .settle t => .next t
  | .run i => exec i s
  | .stop f => .fault f

/-- `s` with the command word `w` placed so that the very next step runs it (assumption 7). -/
def State.withFetchWord (s : State) (nbits w : Nat) : State :=
  s.loadCommand (BitVec.ofNat 32 (w % 2 ^ nbits))

end Sys2Proof.Machine
end

