-- ==== Sys2Proof/WellFormed.lean ====
section
/-!
DEFINITION. Which source lines the assembler accepts (rules R120, R121 of spec/30_encoding.md).

A term of `Instr` needs no check: each operand's type is its field's width, so every term has an
encoding (R101–R106). The checks stand where numbers are still free: on a source line.
-/

namespace Sys2Proof

/-- The operand kinds of a mnemonic, in order: the syntax columns of R110 and R121. -/
def AsmOp.shape : AsmOp → List ArgKind
  | .nop => []
  | .lil | .lih => [.x, .imm16]
  | .xor | .upd | .peel => [.x, .x, .x]
  | .fin | .chklen | .tbl | .zcrc | .advr => [.x, .x]
  | .updi | .peeli => [.x, .x, .byte]
  | .mbase => [.m, .dir]
  | .msq => [.m, .m]
  | .mapply => [.x, .m, .x]
  | .mpow => [.m, .x, .dir]
  | .zpad => [.x, .x, .x, .dir]
  | .mrow => [.x, .m, .row]
  | .mset => [.m, .x, .row]
  | .comb | .trim => [.x, .x, .x, .x]
  | .advb | .clr => [.x]
  | .li => [.x, .imm32]
  | .mov | .work | .updz | .hashb => [.x, .x]
  | .hashi => [.x, .byte]
  | .mident => [.m]
  | .zpadf | .zpadr => [.x, .x, .x]

/-- The ranges of R120: `x0`–`x15`, `m0`–`m3`, a byte 0–255, a row 0–31, a 16-bit immediate 0–65535,
`fwd` or `inv`; and the 32-bit immediate of `LI` (R121). -/
def ArgKind.admits : ArgKind → AsmArg → Bool
  | .x, .x n => n < 16
  | .m, .m n => n < 4
  | .byte, .num n => n < 256
  | .row, .num n => n < 32
  | .imm16, .num n => n < 65536
  | .imm32, .num n => n < 4294967296
  | .dir, .dir _ => true
  | _, _ => false

/-- Each operand fits its position, and none is missing or left over. -/
def fitsShape : List ArgKind → List AsmArg → Bool
  | [], [] => true
  | k :: ks, a :: as => k.admits a && fitsShape ks as
  | _, _ => false

/-- A well-formed source line: its operands fit, and `HASHB xd, xs` has `d ≠ s` (the condition column
of R121). -/
def AsmLine.wellFormed (l : AsmLine) : Bool :=
  fitsShape l.op.shape l.args && !(l.op == .hashb && l.args[0]? == l.args[1]?)

end Sys2Proof
end

