-- ==== Sys2Proof/Machine/Assembler.lean ====
section
/-!
DEFINITION. The spec's assembler, from the text of a line to the command words the host issues: the syntax
of rule R120 and the pseudo-instructions of rule R121 (spec/30_encoding.md). The engine never sees the
text; the host's program is the list of words. The details that R120 leaves open are the model's
(DESIGN CHOICE, assumption 13).
-/

namespace Sys2Proof.Machine

/-- The commands a well-formed line stands for, in issue order: one command, or the expansion of a
pseudo-instruction (R120, R121). -/
def expand : AsmOp → List AsmArg → Option (List Instr)
  | .nop, [] => some [.nop]
  | .lil, [.x d, .num n] => some [.lil d n]
  | .lih, [.x d, .num n] => some [.lih d n]
  | .xor, [.x d, .x s, .x t] => some [.xor d s t]
  | .fin, [.x d, .x s] => some [.fin d s]
  | .chklen, [.x s, .x t] => some [.chklen s t]
  | .upd, [.x d, .x s, .x t] => some [.upd d s t]
  | .updi, [.x d, .x s, .num b] => some [.updi d s b]
  | .tbl, [.x d, .x s] => some [.tbl d s]
  | .mbase, [.m d, .dir v] => some [.mbase d v]
  | .msq, [.m d, .m s] => some [.msq d s]
  | .mapply, [.x d, .m s, .x t] => some [.mapply d s t]
  | .mpow, [.m d, .x s, .dir v] => some [.mpow d s v]
  | .zpad, [.x d, .x s, .x t, .dir v] => some [.zpad d s t v]
  | .mrow, [.x d, .m s, .num r] => some [.mrow d s r]
  | .mset, [.m d, .x s, .num r] => some [.mset d s r]
  | .zcrc, [.x d, .x s] => some [.zcrc d s]
  | .comb, [.x d, .x s, .x t, .x u] => some [.comb d s t u]
  | .trim, [.x d, .x s, .x t, .x u] => some [.trim d s t u]
  | .advb, [.x s] => some [.advb s]
  | .peel, [.x d, .x s, .x t] => some [.peel d s t]
  | .peeli, [.x d, .x s, .num b] => some [.peeli d s b]
  | .advr, [.x d, .x s] => some [.advr d s]
  | .li, [.x d, .num n] => some [.lil d n, .lih d (n / 65536 : Nat)]
  | .clr, [.x d] => some [.xor d d d]
  | .mov, [.x d, .x s] => some [.fin d s, .fin d d]
  | .work, [.x d, .x s] => some [.fin d s]
  | .updz, [.x d, .x s] => some [.updi d s 0]
  | .hashi, [.x d, .num b] => some [.lil d 0xFFFF, .lih d 0xFFFF, .updi d d b, .fin d d]
  | .hashb, [.x d, .x s] => some [.lil d 0xFFFF, .lih d 0xFFFF, .upd d d s, .fin d d]
  | .mident, [.m d] => some [.xor 15 15 15, .mpow d 15 .fwd]
  | .zpadf, [.x d, .x s, .x n] => some [.zpad d s n .fwd]
  | .zpadr, [.x d, .x s, .x n] => some [.zpad d s n .inv]
  | _, _ => none

/-- A source line as commands; none if it is not well-formed (R120, R121). -/
def assembleLine (l : AsmLine) : Option (List Instr) :=
  if l.wellFormed then expand l.op l.args else none

/-! ### The text of a line (R120) -/

/-- The pieces of a line: a word, a comma, a quoted ASCII character. -/
inductive Token where
  | word (cs : List Char)
  | comma
  | quoted (c : Char)
deriving DecidableEq, Repr

/-- The word read so far, if any, before the tokens that follow it. -/
def flushWord (acc : List Char) (rest : List Token) : List Token :=
  if acc.isEmpty then rest else .word acc :: rest

/-- The tokens of a line; `;` outside a quoted character begins a comment. -/
def tokenize : List Char → List Char → Option (List Token)
  | [], acc => some (flushWord acc [])
  | '\'' :: c :: '\'' :: cs, acc =>
    if c.toNat < 128 then (tokenize cs []).map fun ts => flushWord acc (.quoted c :: ts) else none
  | c :: cs, acc =>
    if c = ';' then some (flushWord acc [])
    else if c = ',' then (tokenize cs []).map fun ts => flushWord acc (.comma :: ts)
    else if c = ' ' ∨ c = '\t' then (tokenize cs []).map fun ts => flushWord acc ts
    else if c.isAlphanum then tokenize cs (acc ++ [c])
    else none

/-- The value of a hexadecimal digit. -/
def digitValue (c : Char) : Option Nat :=
  if '0' ≤ c ∧ c ≤ '9' then some (c.toNat - 48)
  else if 'A' ≤ c ∧ c ≤ 'F' then some (c.toNat - 55)
  else if 'a' ≤ c ∧ c ≤ 'f' then some (c.toNat - 87)
  else none

/-- A digit string in a base, most significant digit first. -/
def digits (base : Nat) : List Char → Nat → Option Nat
  | [], n => some n
  | c :: cs, n =>
    match digitValue c with
    | some d => if d < base then digits base cs (base * n + d) else none
    | none => none

/-- A number, decimal or `0x` hexadecimal. -/
def number : List Char → Option Nat
  | [] => none
  | ['0', 'x'] => none
  | '0' :: 'x' :: cs => digits 16 cs 0
  | cs => digits 10 cs 0

/-- The number after the `x` or `m` of a register name. -/
def registerNumber : List Char → Option Nat
  | [] => none
  | cs => digits 10 cs 0

/-- One operand: `x0`–`x15`, `m0`–`m3`, `fwd`, `inv`, a number or a quoted character. -/
def operand : Token → Option AsmArg
  | .word ['f', 'w', 'd'] => some (.dir .fwd)
  | .word ['i', 'n', 'v'] => some (.dir .inv)
  | .word ('x' :: cs) => (registerNumber cs).map .x
  | .word ('m' :: cs) => (registerNumber cs).map .m
  | .word cs => (number cs).map .num
  | .quoted c => some (.num c.toNat)
  | .comma => none

/-- The operands that follow the first, each after a comma. -/
def moreOperands : List Token → Option (List AsmArg)
  | [] => some []
  | .comma :: t :: ts =>
    match operand t, moreOperands ts with
    | some a, some as => some (a :: as)
    | _, _ => none
  | _ => none

/-- The operands of a line, separated by commas. -/
def operands : List Token → Option (List AsmArg)
  | [] => some []
  | ts => moreOperands (.comma :: ts)

/-- The mnemonics, in capitals. -/
def mnemonics : List (List Char × AsmOp) :=
  [ (['N', 'O', 'P'], .nop), (['L', 'I', 'L'], .lil), (['L', 'I', 'H'], .lih), (['X', 'O', 'R'], .xor),
    (['F', 'I', 'N'], .fin), (['C', 'H', 'K', 'L', 'E', 'N'], .chklen), (['U', 'P', 'D'], .upd),
    (['U', 'P', 'D', 'I'], .updi), (['T', 'B', 'L'], .tbl), (['M', 'B', 'A', 'S', 'E'], .mbase),
    (['M', 'S', 'Q'], .msq), (['M', 'A', 'P', 'P', 'L', 'Y'], .mapply), (['M', 'P', 'O', 'W'], .mpow),
    (['Z', 'P', 'A', 'D'], .zpad), (['M', 'R', 'O', 'W'], .mrow), (['M', 'S', 'E', 'T'], .mset),
    (['Z', 'C', 'R', 'C'], .zcrc), (['C', 'O', 'M', 'B'], .comb), (['T', 'R', 'I', 'M'], .trim),
    (['A', 'D', 'V', 'B'], .advb), (['P', 'E', 'E', 'L'], .peel), (['P', 'E', 'E', 'L', 'I'], .peeli),
    (['A', 'D', 'V', 'R'], .advr), (['L', 'I'], .li), (['C', 'L', 'R'], .clr), (['M', 'O', 'V'], .mov),
    (['W', 'O', 'R', 'K'], .work), (['U', 'P', 'D', 'Z'], .updz), (['H', 'A', 'S', 'H', 'I'], .hashi),
    (['H', 'A', 'S', 'H', 'B'], .hashb), (['M', 'I', 'D', 'E', 'N', 'T'], .mident),
    (['Z', 'P', 'A', 'D', 'F'], .zpadf), (['Z', 'P', 'A', 'D', 'R'], .zpadr) ]

/-- A line of text as commands: an empty line or a comment is none of them, and the mnemonic is
case-insensitive (R120). -/
def assembleText (line : List Char) : Option (List Instr) :=
  match tokenize line [] with
  | some [] => some []
  | some (.word op :: ts) =>
    match mnemonics.lookup (op.map Char.toUpper), operands ts with
    | some o, some as => assembleLine ⟨o, as⟩
    | _, _ => none
  | _ => none

/-- A program: the command words of its lines, in issue order; none if a line does not assemble. -/
def assemble (lines : List (List Char)) : Option (List Word) :=
  (lines.mapM assembleText).map fun is => is.flatten.map encode

end Sys2Proof.Machine
end

