-- ==== Sys2Proof/Safety.lean ====
section
/-!
DEFINITION. What counts as a safe state and a safe run, and the words the claims are stated in: a command
accepted, a command that raises, a command that completes, and all it leaves unchanged.
-/

namespace Sys2Proof.Machine

/-- The advance table in the RAM is the one for target size `S`, entry by entry (R260, R263). -/
def State.HoldsTable (s : State) (S : Word) : Prop := ∀ b : Byte, s.readAdv b = advEntry S b

/-- The engine's invariant:
ERRCMD is 0 while there is no error (R320, R327); the command in flight is a command whose checks hold in
the state it will complete in (R80, R81); ADVS is 0 until a table is built (R39); a built table is the one
for ADVS, a size within MAXLEN (R35, R39, R263). -/
structure State.Inv (s : State) : Prop where
  errcmd_clear : s.err = .noError → s.errcmd = 0#32
  flight_checked : s.busy = true → ∃ i, decode s.pend = .ok i ∧ issueCheck i s = none
  advs_clear : s.advValid = false → s.advs = 0#32
  table_built : s.advValid = true → s.advs ≤ Config.maxLen ∧ s.HoldsTable s.advs

/-- It is the engine's turn: the schedule says so, or nothing else is scheduled (R30). -/
def State.EngineTurn (s : State) : Prop := s.schedule = [] ∨ ∃ rest, s.schedule = .engine :: rest

/-- Everything of the engine but its general and matrix registers, its advance table and BUSY is
unchanged, and so is all of its environment but the event retired. -/
structure ControlKept (s t : State) : Prop where
  busy : t.busy = false
  err : t.err = s.err
  errcmd : t.errcmd = s.errcmd
  pend : t.pend = s.pend
  rdata : t.rdata = s.rdata
  draws : t.draws = s.draws
  schedule : t.schedule = s.schedule.tail

/-- The advance table and its descriptor are unchanged. -/
structure TableKept (s t : State) : Prop where
  adv : ∀ b : Byte, t.readAdv b = s.readAdv b
  advs : t.advs = s.advs
  advValid : t.advValid = s.advValid

/-- A command completed and wrote nothing. -/
structure WroteNothing (s t : State) : Prop where
  regs : ∀ r, t.readX r = s.readX r
  mats : ∀ j, t.readM j = s.readM j
  table : TableKept s t
  control : ControlKept s t

/-- A command completed and wrote `v` to `x[rd]`, and nothing else. -/
structure WroteX (s t : State) (rd : Reg) (v : Word) : Prop where
  dest : t.readX rd = v
  regs : ∀ r, r ≠ rd → t.readX r = s.readX r
  mats : ∀ j, t.readM j = s.readM j
  table : TableKept s t
  control : ControlKept s t

/-- A command completed and wrote the matrix register `m[md]`, row `k` being `rows k`, and nothing else. -/
structure WroteM (s t : State) (md : MReg) (rows : RowIx → Word) : Prop where
  dest : ∀ k, getRow (t.readM md) k = rows k
  mats : ∀ j, j ≠ md → t.readM j = s.readM j
  regs : ∀ r, t.readX r = s.readX r
  table : TableKept s t
  control : ControlKept s t

/-- A command completed and built the advance table for target size `S`, and nothing else. -/
structure WroteTable (s t : State) (S : Word) : Prop where
  entries : t.HoldsTable S
  advs : t.advs = S
  advValid : t.advValid = true
  regs : ∀ r, t.readX r = s.readX r
  mats : ∀ j, t.readM j = s.readM j
  control : ControlKept s t

/-- An idle engine without an error: the state in which a command is decoded and checked (R80). -/
abbrev State.Ready (s : State) : Prop := s.busy = false ∧ s.err = .noError

/-- The command, spelled by `w`, is accepted: `PEND <- w`, `BUSY <- 1`, and nothing else (R80 step 5). -/
def Accepts (i : Instr) (w : Word) (s : State) : Prop :=
  exec i s = .next { s with pend := w, busy := true, schedule := s.schedule.tail }

/-- The command, spelled by `w`, raises `e`: ERR and ERRCMD are set, and nothing else (R326). -/
def Raises (i : Instr) (w : Word) (e : ErrCode) (s : State) : Prop :=
  exec i s = .next { s with err := e, errcmd := w, schedule := s.schedule.tail }

/-- `w` is the one word that spells `i` (R110). -/
def Spells (w : Word) (i : Instr) : Prop := ∀ v : Word, decode v = .ok i ↔ v = w

/-- The whole rule of a command without an error of its own: the one word that spells it, its acceptance
by a ready engine, and its completion with all it changes. -/
def PlainCommand (i : Instr) (w : Word) (effect : State → State → Prop) : Prop :=
  Spells w i ∧
  (∀ s : State, s.Ready → Accepts i w s) ∧
  (∀ s : State, s.busy = true → ∃ t, exec i s = .next t ∧ effect s t)

/-- The whole rule of a command with one check at issue: the one word that spells it; a ready
engine accepts it if the check holds and raises `e` if not; in flight, with the check holding, it
completes with all it changes. -/
def CheckedCommand (i : Instr) (w : Word) (ok : State → Prop) (e : ErrCode)
    (effect : State → State → Prop) : Prop :=
  Spells w i ∧
  (∀ s : State, s.Ready → ok s → Accepts i w s) ∧
  (∀ s : State, s.Ready → ¬ ok s → Raises i w e s) ∧
  (∀ s : State, s.busy = true → ok s → ∃ t, exec i s = .next t ∧ effect s t)

/-- The two states agree on everything of the engine and on what is scheduled; what the host has read,
and how many free values it drew, may differ. -/
def SameEngine (s t : State) : Prop :=
  { s with rdata := 0#32, draws := 0 } = { t with rdata := 0#32, draws := 0 }

/-- The machine goes on: no fault and no refusal. -/
def GoesOn (o : Host.Outcome State Fault Refusal) : Prop := ∃ t, o = .next t

end Sys2Proof.Machine
end

