-- ==== Sys2Proof/Certificates/Slice0/Obligations.lean ====
section
/-!
DEFINITION. The statements for the provers. Each docstring names the rule or the section of spec/ that the
statement formalises; OBLIGATIONS.json lists them. The fields `schedule`, `rdata` and `draws` that the
statements speak of are the model's choice (assumptions 1, 4 and 5): they stand for the host.
-/

open Sys2Proof Sys2Proof.Machine

/-! ## Words the statements share -/

namespace Sys2Proof.Statements

/-- The mask and match columns of the opcode map of rule R110, row for row. -/
def maskAndMatch : List (Word × Word) :=
  [(0xFFFFFFFF, 0x00000000), (0xFF0F0000, 0x01000000), (0xFF0F0000, 0x02000000),
   (0xFF000FFF, 0x03000000), (0xFF00FFFF, 0x04000000), (0xFFF00FFF, 0x05000000),
   (0xFF000FFF, 0x10000000), (0xFF00FF00, 0x11000000), (0xFF00FFFF, 0x12000000),
   (0xFFCFFFFE, 0x20000000), (0xFFCCFFFF, 0x21000000), (0xFF0C0FFF, 0x22000000),
   (0xFFC0FFFE, 0x23000000), (0xFF000FFE, 0x24000000), (0xFF0CFFE0, 0x25000000),
   (0xFFC0FFE0, 0x26000000), (0xFF00FFFF, 0x30000000), (0xFF0000FF, 0x31000000),
   (0xFF0000FF, 0x32000000), (0xFFF0FFFF, 0x40000000), (0xFF000FFF, 0x41000000),
   (0xFF00FF00, 0x42000000), (0xFF00FFFF, 0x43000000)]

/-- The 256 values of the CRC ROM as rule R33 lists them. -/
def romListing : List Word :=
  [ 0x00000000, 0x77073096, 0xEE0E612C, 0x990951BA, 0x076DC419, 0x706AF48F, 0xE963A535, 0x9E6495A3,
    0x0EDB8832, 0x79DCB8A4, 0xE0D5E91E, 0x97D2D988, 0x09B64C2B, 0x7EB17CBD, 0xE7B82D07, 0x90BF1D91,
    0x1DB71064, 0x6AB020F2, 0xF3B97148, 0x84BE41DE, 0x1ADAD47D, 0x6DDDE4EB, 0xF4D4B551, 0x83D385C7,
    0x136C9856, 0x646BA8C0, 0xFD62F97A, 0x8A65C9EC, 0x14015C4F, 0x63066CD9, 0xFA0F3D63, 0x8D080DF5,
    0x3B6E20C8, 0x4C69105E, 0xD56041E4, 0xA2677172, 0x3C03E4D1, 0x4B04D447, 0xD20D85FD, 0xA50AB56B,
    0x35B5A8FA, 0x42B2986C, 0xDBBBC9D6, 0xACBCF940, 0x32D86CE3, 0x45DF5C75, 0xDCD60DCF, 0xABD13D59,
    0x26D930AC, 0x51DE003A, 0xC8D75180, 0xBFD06116, 0x21B4F4B5, 0x56B3C423, 0xCFBA9599, 0xB8BDA50F,
    0x2802B89E, 0x5F058808, 0xC60CD9B2, 0xB10BE924, 0x2F6F7C87, 0x58684C11, 0xC1611DAB, 0xB6662D3D] ++
  [ 0x76DC4190, 0x01DB7106, 0x98D220BC, 0xEFD5102A, 0x71B18589, 0x06B6B51F, 0x9FBFE4A5, 0xE8B8D433,
    0x7807C9A2, 0x0F00F934, 0x9609A88E, 0xE10E9818, 0x7F6A0DBB, 0x086D3D2D, 0x91646C97, 0xE6635C01,
    0x6B6B51F4, 0x1C6C6162, 0x856530D8, 0xF262004E, 0x6C0695ED, 0x1B01A57B, 0x8208F4C1, 0xF50FC457,
    0x65B0D9C6, 0x12B7E950, 0x8BBEB8EA, 0xFCB9887C, 0x62DD1DDF, 0x15DA2D49, 0x8CD37CF3, 0xFBD44C65,
    0x4DB26158, 0x3AB551CE, 0xA3BC0074, 0xD4BB30E2, 0x4ADFA541, 0x3DD895D7, 0xA4D1C46D, 0xD3D6F4FB,
    0x4369E96A, 0x346ED9FC, 0xAD678846, 0xDA60B8D0, 0x44042D73, 0x33031DE5, 0xAA0A4C5F, 0xDD0D7CC9,
    0x5005713C, 0x270241AA, 0xBE0B1010, 0xC90C2086, 0x5768B525, 0x206F85B3, 0xB966D409, 0xCE61E49F,
    0x5EDEF90E, 0x29D9C998, 0xB0D09822, 0xC7D7A8B4, 0x59B33D17, 0x2EB40D81, 0xB7BD5C3B, 0xC0BA6CAD] ++
  [ 0xEDB88320, 0x9ABFB3B6, 0x03B6E20C, 0x74B1D29A, 0xEAD54739, 0x9DD277AF, 0x04DB2615, 0x73DC1683,
    0xE3630B12, 0x94643B84, 0x0D6D6A3E, 0x7A6A5AA8, 0xE40ECF0B, 0x9309FF9D, 0x0A00AE27, 0x7D079EB1,
    0xF00F9344, 0x8708A3D2, 0x1E01F268, 0x6906C2FE, 0xF762575D, 0x806567CB, 0x196C3671, 0x6E6B06E7,
    0xFED41B76, 0x89D32BE0, 0x10DA7A5A, 0x67DD4ACC, 0xF9B9DF6F, 0x8EBEEFF9, 0x17B7BE43, 0x60B08ED5,
    0xD6D6A3E8, 0xA1D1937E, 0x38D8C2C4, 0x4FDFF252, 0xD1BB67F1, 0xA6BC5767, 0x3FB506DD, 0x48B2364B,
    0xD80D2BDA, 0xAF0A1B4C, 0x36034AF6, 0x41047A60, 0xDF60EFC3, 0xA867DF55, 0x316E8EEF, 0x4669BE79,
    0xCB61B38C, 0xBC66831A, 0x256FD2A0, 0x5268E236, 0xCC0C7795, 0xBB0B4703, 0x220216B9, 0x5505262F,
    0xC5BA3BBE, 0xB2BD0B28, 0x2BB45A92, 0x5CB36A04, 0xC2D7FFA7, 0xB5D0CF31, 0x2CD99E8B, 0x5BDEAE1D] ++
  [ 0x9B64C2B0, 0xEC63F226, 0x756AA39C, 0x026D930A, 0x9C0906A9, 0xEB0E363F, 0x72076785, 0x05005713,
    0x95BF4A82, 0xE2B87A14, 0x7BB12BAE, 0x0CB61B38, 0x92D28E9B, 0xE5D5BE0D, 0x7CDCEFB7, 0x0BDBDF21,
    0x86D3D2D4, 0xF1D4E242, 0x68DDB3F8, 0x1FDA836E, 0x81BE16CD, 0xF6B9265B, 0x6FB077E1, 0x18B74777,
    0x88085AE6, 0xFF0F6A70, 0x66063BCA, 0x11010B5C, 0x8F659EFF, 0xF862AE69, 0x616BFFD3, 0x166CCF45,
    0xA00AE278, 0xD70DD2EE, 0x4E048354, 0x3903B3C2, 0xA7672661, 0xD06016F7, 0x4969474D, 0x3E6E77DB,
    0xAED16A4A, 0xD9D65ADC, 0x40DF0B66, 0x37D83BF0, 0xA9BCAE53, 0xDEBB9EC5, 0x47B2CF7F, 0x30B5FFE9,
    0xBDBDF21C, 0xCABAC28A, 0x53B39330, 0x24B4A3A6, 0xBAD03605, 0xCDD70693, 0x54DE5729, 0x23D967BF,
    0xB3667A2E, 0xC4614AB8, 0x5D681B02, 0x2A6F2B94, 0xB40BBE37, 0xC30C8EA1, 0x5A05DF1B, 0x2D02EF8D]

/-- The commands that write a matrix register (R32). -/
def WritesMatrix : Instr → Prop
  | .mbase _ _ | .msq _ _ | .mpow _ _ _ | .mset _ _ _ => True
  | _ => False

/-- The values rule R360 gives after reset, as the host and the commands can see them. -/
structure ResetValues (s : State) : Prop where
  regs : ∀ r, s.readX r = 0#32
  mats : ∀ j k, getRow (s.readM j) k = 0#32
  busy : s.busy = false
  advValid : s.advValid = false
  err : s.err = .noError
  status : s.status = 0#32
  errcmd : s.errcmd = 0#32
  advs : s.advs = 0#32

/-- The commands, each written to CMD of a ready engine and then completed, take it to a state `post`
speaks of, with BUSY and ERR clear. -/
def Achieves (is : List Instr) (post : State → State → Prop) : Prop :=
  ∀ s : State, s.Ready → s.schedule = is.flatMap (fun i => [.write 0x10#8 (encode i), .engine]) →
    ∃ t : State, Sys2Proof.core.run (2 * is.length) s = .next t ∧ t.Ready ∧ t.schedule = [] ∧
      TableKept s t ∧ post s t

/-- `x[d]` is `v`; every other general register and every matrix register is as it was. -/
def SetsX (d : Reg) (v : State → Word) (s t : State) : Prop :=
  t.readX d = v s ∧ (∀ r, r ≠ d → t.readX r = s.readX r) ∧ ∀ j, t.readM j = s.readM j

end Sys2Proof.Statements

open Sys2Proof.Statements

/-! ## Encoding -/

/-- Decoding an encoded command gives that command, with every operand at every value
(spec/30_encoding.md section 3). -/
def Obligations.DecodeOfEncodeIsTheCommand : Prop :=
  ∀ i : Instr, decode (encode i) = .ok i

/-- Every legal word is the encoding of the command it decodes to, so no bit of it is dropped
(spec/30_encoding.md sections 3 and 4). -/
def Obligations.EncodeOfDecodeIsTheWord : Prop :=
  ∀ (w : Word) (i : Instr), decode w = .ok i → encode i = w

/-- At most one row of the decoder's opcode map is spelled by a word, and the map's masks and matches are
the columns of the spec's (spec/30_encoding.md section 3). -/
def Obligations.AtMostOneRowMatches : Prop :=
  (∀ w : Word, (opcodeMap.filter fun r => r.spells w).length ≤ 1) ∧
  opcodeMap.map (fun r => (r.mask, r.pattern)) = maskAndMatch

/-- R111: a word is illegal exactly if it matches no row: its opcode is unassigned, or a must-be-zero
bit of its opcode's row is set; issuing an illegal word raises ILLEGAL and has no other effect. -/
def Obligations.IllegalWordsRaiseIllegal : Prop :=
  (∀ w : Word, (∃ e, decode w = .error e) ↔ ∀ p ∈ maskAndMatch, w &&& p.1 ≠ p.2) ∧
  (∀ w : Word, decode w = .error .unassignedOpcode ↔
    w.extractLsb' 24 8 ∉ [0x00#8, 0x01#8, 0x02#8, 0x03#8, 0x04#8, 0x05#8, 0x10#8, 0x11#8, 0x12#8,
      0x20#8, 0x21#8, 0x22#8, 0x23#8, 0x24#8, 0x25#8, 0x26#8, 0x30#8, 0x31#8, 0x32#8, 0x40#8,
      0x41#8, 0x42#8, 0x43#8]) ∧
  (∀ w : Word, decode w = .error .mustBeZero ↔
    ∃ p ∈ maskAndMatch, w.extractLsb' 24 8 = p.2.extractLsb' 24 8 ∧ w &&& p.1 ≠ p.2) ∧
  (∀ (s : State) (w : Word) (e : IllegalWord) (rest : List Event),
    s.Ready → s.schedule = .write 0x10#8 w :: rest → decode w = .error e →
    step s = .next { s with err := .illegal, errcmd := w, schedule := rest })

/-- Sample words of the vectors and programs of spec/95_test_vectors.md, sections 2 and 3, decode as it says
(a sanity statement). -/
def Obligations.SampleWordsDecode : Prop :=
  decode 0x0210DE57#32 = .ok (.lih 1#4 0xDE57#16) ∧
  decode 0x10312000#32 = .ok (.upd 3#4 1#4 2#4) ∧
  decode 0x2551001F#32 = .ok (.mrow 5#4 1#2 31#5) ∧
  decode 0x24312001#32 = .ok (.zpad 3#4 1#4 2#4 .inv) ∧
  decode 0x30510000#32 = .ok (.zcrc 5#4 1#4) ∧
  decode 0x31412300#32 = .ok (.comb 4#4 1#4 2#4 3#4) ∧
  decode 0x42440048#32 = .ok (.peeli 4#4 4#4 0x48#8) ∧
  decode 0x21500000#32 = .error .mustBeZero ∧
  decode 0x44000000#32 = .error .unassignedOpcode

/-! ## The life of a command -/

/-- A step runs the decoded command: a legal word written to CMD of a ready engine, and the command in
flight at the engine's turn, make the step be `exec` of what the word decodes to; `exec` itself retires
the event (spec/20_memory.md section 5). -/
def Obligations.StepRunsTheDecodedCommand : Prop :=
  (∀ (s : State) (w : Word) (i : Instr) (rest : List Event),
    s.Ready → s.schedule = .write 0x10#8 w :: rest → decode w = .ok i → step s = exec i s) ∧
  (∀ (s : State) (i : Instr),
    s.EngineTurn → s.busy = true → decode s.pend = .ok i → step s = exec i s)

/-- R80: what a host write of `w` to CMD does, in the order of its five steps. -/
def Obligations.CmdWriteFollowsIssueOrder : Prop :=
  ∀ (s : State) (w : Word) (rest : List Event), s.schedule = .write 0x10#8 w :: rest →
    (s.busy = true → s.err = .noError →
      step s = .next { s with err := .overrun, errcmd := w, schedule := rest }) ∧
    (s.busy = true → s.err ≠ .noError → step s = .next { s with schedule := rest }) ∧
    (s.busy = false → s.err ≠ .noError → step s = .next { s with schedule := rest }) ∧
    (s.Ready → (∃ e, decode w = .error e) →
      step s = .next { s with err := .illegal, errcmd := w, schedule := rest }) ∧
    (∀ i e, s.Ready → decode w = .ok i → issueCheck i s = some e →
      step s = .next { s with err := e, errcmd := w, schedule := rest }) ∧
    (∀ i, s.Ready → decode w = .ok i → issueCheck i s = none →
      step s = .next { s with pend := w, busy := true, schedule := rest })

/-- R322: the errors each command can raise of its own at issue, and when; with CHKLEN's two in the
order of R323. -/
def Obligations.OwnChecksOfEachCommand : Prop :=
  ∀ (s : State) (rd rs1 rs2 rs3 : Reg) (md ms : MReg) (dir : Dir) (row : RowIx) (byte : Byte)
    (imm16 : BitVec 16),
    (∀ i ∈ [Instr.nop, .lil rd imm16, .lih rd imm16, .xor rd rs1 rs2, .fin rd rs1, .upd rd rs1 rs2,
      .updi rd rs1 byte, .tbl rd rs1, .mbase md dir, .msq md ms, .mapply rd ms rs2, .mpow md rs1 dir,
      .zpad rd rs1 rs2 dir, .mrow rd ms row, .mset md rs1 row, .trim rd rs1 rs2 rs3],
      issueCheck i s = none) ∧
    issueCheck (.chklen rs1 rs2) s =
      (if s.readX rs2 ≤ s.readX rs1 then some .invalidInput
       else if 0x1FFFFFFF#32 < s.readX rs2 then some .lengthDomain else none) ∧
    (∀ i ∈ [Instr.zcrc rd rs1, .advb rs1],
      issueCheck i s = if 0x1FFFFFFF#32 < s.readX rs1 then some .lengthDomain else none) ∧
    issueCheck (.comb rd rs1 rs2 rs3) s =
      (if 0x1FFFFFFF#32 < s.readX rs3 then some .lengthDomain else none) ∧
    (∀ i ∈ [Instr.peel rd rs1 rs2, .peeli rd rs1 byte, .advr rd rs1],
      issueCheck i s = if s.advValid then none else some .advNotBuilt)

/-- At the engine's turn the command in flight has its effect and BUSY is cleared; completion never raises
an error (spec/20_memory.md section 5; the effects are stated command by command below). -/
def Obligations.CompletionClearsBusyAndRaisesNothing : Prop :=
  ∀ (s : State) (i : Instr), s.EngineTurn → s.busy = true → decode s.pend = .ok i →
    ∃ t, step s = .next t ∧ exec i s = .next t ∧ t.busy = false ∧ t.err = s.err ∧ t.errcmd = s.errcmd

/-- From a ready engine a legal word whose checks hold is accepted in one step and completed in the next
(spec/20_memory.md section 5). -/
def Obligations.CommandRunsInTwoSteps : Prop :=
  ∀ (s : State) (w : Word) (i : Instr) (rest : List Event),
    s.Ready → s.schedule = .write 0x10#8 w :: .engine :: rest → decode w = .ok i →
    issueCheck i s = none →
    ∃ s₁ s₂, step s = .next s₁ ∧ s₁.busy = true ∧ s₁.pend = w ∧ s₁.x = s.x ∧
      step s₁ = .next s₂ ∧ exec i s₁ = .next s₂ ∧ s₂.busy = false ∧ s₂.err = .noError ∧
      s₂.schedule = rest

/-- A command in flight completes, or is abandoned by reset, after finitely many steps: at most one more
than there are events scheduled (spec/10_state.md section 1, the weak fairness; the bound is the model's
choice, assumption 1). -/
def Obligations.FlightEndsWithinTheSchedule : Prop :=
  ∀ s : State, s.Inv → s.busy = true →
    ∃ k, k ≤ s.schedule.length + 1 ∧ ∃ t : State, Sys2Proof.core.run k s = .next t ∧ t.busy = false

/-! ## The host port -/

/-- R72: with BUSY = 0 a read of X0–X15 returns the register and a write sets it, whatever ERR is, and
nothing else of the engine changes. -/
def Obligations.IdleRegisterAccess : Prop :=
  ∀ (s : State) (r : Reg) (rest : List Event), s.busy = false →
    (s.schedule = .read (0#4 ++ r) :: rest →
      step s = .next { s with rdata := s.readX r, schedule := rest }) ∧
    (∀ v, s.schedule = .write (0#4 ++ r) v :: rest →
      ∃ t, step s = .next t ∧ t.readX r = v ∧ (∀ q, q ≠ r → t.readX q = s.readX q) ∧
        { t with x := s.x } = { s with schedule := rest })

/-- R74 and R327: a read of STATUS is valid whatever BUSY is and returns the fields of R37, ERR as the code
that R320 numbers; a write of any value, at any time, clears ERR and ERRCMD and changes nothing else. -/
def Obligations.StatusReadAndErrorClear : Prop :=
  (ErrCode.noError.code = 0#4 ∧ ErrCode.illegal.code = 1#4 ∧ ErrCode.invalidInput.code = 2#4 ∧
    ErrCode.lengthDomain.code = 3#4 ∧ ErrCode.advNotBuilt.code = 4#4 ∧ ErrCode.overrun.code = 5#4) ∧
  ∀ (s : State) (rest : List Event),
    (s.schedule = .read 0x11#8 :: rest →
      ∃ v : Word, step s = .next { s with rdata := v, schedule := rest } ∧
        v.getLsbD 0 = s.busy ∧ v.getLsbD 1 = s.advValid ∧ v.extractLsb' 2 2 = 0#2 ∧
        v.extractLsb' 4 4 = s.err.code ∧ v.extractLsb' 8 24 = 0#24) ∧
    (∀ v, s.schedule = .write 0x11#8 v :: rest →
      step s = .next { s with err := .noError, errcmd := 0#32, schedule := rest })

/-- R75: writes to ERRCMD, ADVS, POLY, MAXLEN and the reserved addresses are ignored without an error,
reserved addresses read 0, and POLY and MAXLEN are valid at any time; with R73's read of CMD, and the
reads of ERRCMD and ADVS with BUSY = 0 (R71). -/
def Obligations.ReadOnlyAndReservedAddresses : Prop :=
  ∀ (s : State) (a : HostAddr) (rest : List Event),
    (∀ v, 0x12#8 ≤ a → s.schedule = .write a v :: rest → step s = .next { s with schedule := rest }) ∧
    (s.schedule = .read a :: rest →
      (0x16#8 ≤ a → step s = .next { s with rdata := 0#32, schedule := rest }) ∧
      (a = 0x10#8 → step s = .next { s with rdata := 0#32, schedule := rest }) ∧
      (a = 0x14#8 → step s = .next { s with rdata := 0xEDB88320#32, schedule := rest }) ∧
      (a = 0x15#8 → step s = .next { s with rdata := 0x1FFFFFFF#32, schedule := rest }) ∧
      (a = 0x12#8 → s.busy = false → step s = .next { s with rdata := s.errcmd, schedule := rest }) ∧
      (a = 0x13#8 → s.busy = false → step s = .next { s with rdata := s.advs, schedule := rest }))

/-- R324: with BUSY = 1 a write to CMD or to X0–X15 is discarded; if ERR = 0 it records OVERRUN with the
written command word, or 0 for a register; if ERR ≠ 0 the first error stays; the command in flight is
not affected. -/
def Obligations.OverrunDiscardsTheWrite : Prop :=
  ∀ (s : State) (r : Reg) (v : Word) (rest : List Event), s.busy = true →
    (s.err = .noError → s.schedule = .write 0x10#8 v :: rest →
      step s = .next { s with err := .overrun, errcmd := v, schedule := rest }) ∧
    (s.err = .noError → s.schedule = .write (0#4 ++ r) v :: rest →
      step s = .next { s with err := .overrun, errcmd := 0#32, schedule := rest }) ∧
    (s.err ≠ .noError →
      s.schedule = .write 0x10#8 v :: rest ∨ s.schedule = .write (0#4 ++ r) v :: rest →
      step s = .next { s with schedule := rest })

/-- With BUSY = 1 a read of X0–X15, ERRCMD or ADVS returns the free value drawn for it and changes nothing
of the engine, whatever that value is (spec/20_memory.md section 2; a fresh value for each read is the
model's choice, assumption 4). -/
def Obligations.BusyReadReturnsAFreeValue : Prop :=
  ∀ (s : State) (a : HostAddr) (rest : List Event), s.busy = true →
    (a < 0x10#8 ∨ a = 0x12#8 ∨ a = 0x13#8) → s.schedule = .read a :: rest →
    step s = .next { s with rdata := Config.busyRead s.draws, draws := s.draws + 1, schedule := rest }

/-- The first error stays until a write to STATUS or reset: no other step changes ERR or ERRCMD while
ERR ≠ 0 (spec/60_exceptions.md section 2). -/
def Obligations.FirstErrorIsSticky : Prop :=
  ∀ s t : State, s.err ≠ .noError → step s = .next t →
    (t.err = s.err ∧ t.errcmd = s.errcmd) ∨
    (∃ v rest, s.schedule = .write 0x11#8 v :: rest ∧ t.err = .noError ∧ t.errcmd = 0#32) ∨
    (∃ rest, s.schedule = .reset :: rest)

/-- A step that raises an error is a host write to a state without one, and it changes only ERR and
ERRCMD; a code other than OVERRUN leaves BUSY 0 (spec/60_exceptions.md section 3). -/
def Obligations.RaisingChangesOnlyErrAndErrcmd : Prop :=
  ∀ s t : State, step s = .next t → t.err ≠ s.err → t.err ≠ .noError →
    ∃ a v rest, s.schedule = .write a v :: rest ∧ s.err = .noError ∧
      t.errcmd = (if a = 0x10#8 then v else 0#32) ∧
      (t.err ≠ .overrun → a = 0x10#8 ∧ s.busy = false) ∧ (t.err = .overrun → s.busy = true) ∧
      t = { s with err := t.err, errcmd := t.errcmd, schedule := rest }

/-- R360: the values after reset, in the state after power-on and after a reset event, which abandons the
command in flight. The entries of ADV and PEND have none. -/
def Obligations.ResetLeavesTheTabledValues : Prop :=
  ResetValues State.reset ∧ Config.poly = 0xEDB88320#32 ∧ Config.maxLen = 0x1FFFFFFF#32 ∧
  (∀ (s : State) (rest : List Event), s.schedule = .reset :: rest →
    ∃ t, step s = .next t ∧ ResetValues t ∧ t.schedule = rest)

/-! ## Invariants and whole-machine rules -/

/-- The state after reset meets the invariant (spec/70_reset_and_hazards.md section 1). -/
def Obligations.ResetMeetsTheInvariant : Prop := State.reset.Inv

/-- Every step keeps the invariant: the command in flight is one whose checks hold, a built table is the
one for ADVS within MAXLEN, and ERRCMD and ADVS are 0 when they must be (spec/20_memory.md section 5,
spec/44_advance_table.md section 2). -/
def Obligations.EveryStepKeepsTheInvariant : Prop :=
  ∀ s t : State, s.Inv → step s = .next t → t.Inv

/-- In a state that meets the invariant no step ends in a fault or a refusal (spec/60_exceptions.md
section 3: there is no halt state). -/
def Obligations.InvariantStatesGoOn : Prop := ∀ s : State, s.Inv → GoesOn (step s)

/-- From reset, whatever the host does and whenever the engine completes, the machine never stops and
meets the invariant all along (spec/60_exceptions.md section 3). -/
def Obligations.NoScheduleStopsTheMachine : Prop :=
  ∀ (events : List Event) (k : Nat),
    ∃ t : State, Sys2Proof.core.run k { State.reset with schedule := events } = .next t ∧ t.Inv

/-- Reset apart, matrix registers are written only by MBASE, MSQ, MPOW and MSET, the advance table, ADVS
and ADV_VALID only by ADVB, each at its completion; ADV_VALID once set stays set
(spec/10_state.md sections 3 and 6, spec/44_advance_table.md section 2). -/
def Obligations.MatricesAndTableHaveTheirOwnWriters : Prop :=
  ∀ s t : State, step s = .next t → (∀ rest, s.schedule ≠ .reset :: rest) →
    (t.m ≠ s.m → s.EngineTurn ∧ s.busy = true ∧ ∃ i, decode s.pend = .ok i ∧ WritesMatrix i) ∧
    (t.adv ≠ s.adv ∨ t.advs ≠ s.advs ∨ t.advValid ≠ s.advValid →
      s.EngineTurn ∧ s.busy = true ∧ ∃ rs1, decode s.pend = .ok (.advb rs1)) ∧
    (s.advValid = true → t.advValid = true)

/-- While a command is in flight no host access changes an operand of it: only its completion and reset
change the registers, the matrices, the table, PEND or BUSY (spec/20_memory.md sections 2 and 5). -/
def Obligations.HostCannotTouchACommandInFlight : Prop :=
  ∀ s t : State, s.busy = true → ¬ s.EngineTurn → (∀ rest, s.schedule ≠ .reset :: rest) →
    step s = .next t →
    t.x = s.x ∧ t.m = s.m ∧ t.adv = s.adv ∧ t.advs = s.advs ∧ t.advValid = s.advValid ∧
    t.pend = s.pend ∧ t.busy = true

/-- What the host reads, and every free value, stays with the host: two states whose engines are alike
step to states whose engines are alike (spec/20_memory.md section 3: reads have no side effects). -/
def Obligations.ReadValuesNeverReachTheEngine : Prop :=
  ∀ s s' t : State, SameEngine s s' → step s = .next t → ∃ t', step s' = .next t' ∧ SameEngine t t'

/-- Whether the engine completes before or after a host read makes no difference to the engine
(spec/70_reset_and_hazards.md section 4: no result depends on the time of completion). -/
def Obligations.CompletionCommutesWithReads : Prop :=
  ∀ (s : State) (a : HostAddr) (rest : List Event), s.Inv → s.busy = true →
    ∃ s₁ s₂ t₁ t₂,
      step { s with schedule := .read a :: .engine :: rest } = .next s₁ ∧ step s₁ = .next s₂ ∧
      step { s with schedule := .engine :: .read a :: rest } = .next t₁ ∧ step t₁ = .next t₂ ∧
      SameEngine s₂ t₂

/-! ## The commands, family by family: the word, the acceptance, the errors, the completion and its frame -/

/-- R290: it changes nothing; like every command it is dropped while ERR ≠ 0; any nonzero word with its
opcode is illegal. -/
def Obligations.NopRule : Prop :=
  PlainCommand .nop 0x00000000#32 WroteNothing ∧
  (∀ (s : State) (rest : List Event), s.busy = false → s.err ≠ .noError →
    s.schedule = .write 0x10#8 0x00000000#32 :: rest → step s = .next { s with schedule := rest }) ∧
  (∀ w : Word, w.extractLsb' 24 8 = 0x00#8 → w ≠ 0x00000000#32 → decode w = .error .mustBeZero)

/-- R291 and R292; a word with the opcode of LIL and a nonzero bit in `[19:16]` is illegal. -/
def Obligations.LilAndLihRules : Prop :=
  (∀ w : Word, w.extractLsb' 24 8 = 0x01#8 → w.extractLsb' 16 4 ≠ 0#4 →
    decode w = .error .mustBeZero) ∧
  ∀ (rd : Reg) (imm16 : BitVec 16),
    PlainCommand (.lil rd imm16) (0x01#8 ++ rd ++ 0#4 ++ imm16)
      (fun s t => WroteX s t rd (0#16 ++ imm16)) ∧
    PlainCommand (.lih rd imm16) (0x02#8 ++ rd ++ 0#4 ++ imm16)
      (fun s t => WroteX s t rd (imm16 ++ (s.readX rd).extractLsb' 0 16))

/-- R293 and R294. -/
def Obligations.XorAndFinRules : Prop :=
  ∀ rd rs1 rs2 : Reg,
    PlainCommand (.xor rd rs1 rs2) (0x03#8 ++ rd ++ rs1 ++ rs2 ++ 0#12)
      (fun s t => WroteX s t rd (s.readX rs1 ^^^ s.readX rs2)) ∧
    PlainCommand (.fin rd rs1) (0x04#8 ++ rd ++ rs1 ++ 0#16)
      (fun s t => WroteX s t rd (s.readX rs1 ^^^ 0xFFFFFFFF#32))

/-- R295: INVALID_INPUT first, then LENGTH_DOMAIN; a length pair that passes changes nothing. -/
def Obligations.ChklenRule : Prop :=
  ∀ rs1 rs2 : Reg,
    Spells (0x05#8 ++ 0#4 ++ rs1 ++ rs2 ++ 0#12) (.chklen rs1 rs2) ∧
    (∀ s : State, s.Ready → s.readX rs2 ≤ s.readX rs1 →
      Raises (.chklen rs1 rs2) (0x05#8 ++ 0#4 ++ rs1 ++ rs2 ++ 0#12) .invalidInput s) ∧
    (∀ s : State, s.Ready → s.readX rs1 < s.readX rs2 → 0x1FFFFFFF#32 < s.readX rs2 →
      Raises (.chklen rs1 rs2) (0x05#8 ++ 0#4 ++ rs1 ++ rs2 ++ 0#12) .lengthDomain s) ∧
    (∀ s : State, s.Ready → s.readX rs1 < s.readX rs2 → s.readX rs2 ≤ 0x1FFFFFFF#32 →
      Accepts (.chklen rs1 rs2) (0x05#8 ++ 0#4 ++ rs1 ++ rs2 ++ 0#12) s) ∧
    (∀ s : State, s.busy = true → s.readX rs1 < s.readX rs2 → s.readX rs2 ≤ 0x1FFFFFFF#32 →
      ∃ t, exec (.chklen rs1 rs2) s = .next t ∧ WroteNothing s t)

/-- R143, R144 and R145. -/
def Obligations.UpdUpdiAndTblRules : Prop :=
  ∀ (rd rs1 rs2 : Reg) (byte : Byte),
    PlainCommand (.upd rd rs1 rs2) (0x10#8 ++ rd ++ rs1 ++ rs2 ++ 0#12)
      (fun s t => WroteX s t rd (upd (s.readX rs1) ((s.readX rs2).extractLsb' 0 8))) ∧
    PlainCommand (.updi rd rs1 byte) (0x11#8 ++ rd ++ rs1 ++ 0#8 ++ byte)
      (fun s t => WroteX s t rd (upd (s.readX rs1) byte)) ∧
    PlainCommand (.tbl rd rs1) (0x12#8 ++ rd ++ rs1 ++ 0#16)
      (fun s t => WroteX s t rd (tblEntry ((s.readX rs1).extractLsb' 0 8)))

/-- R180 and R183. -/
def Obligations.MbaseAndMpowRules : Prop :=
  ∀ (md : MReg) (rs1 : Reg) (dir : Dir),
    PlainCommand (.mbase md dir) (0x20#8 ++ 0#2 ++ md ++ 0#19 ++ dir.bit)
      (fun s t => WroteM s t md fun k => bitStep dir (1#32 <<< (31 - k.toNat))) ∧
    PlainCommand (.mpow md rs1 dir) (0x23#8 ++ 0#2 ++ md ++ rs1 ++ 0#15 ++ dir.bit)
      (fun s t => WroteM s t md fun k => getRow (gfPow dir (s.readX rs1)) k)

/-- R181: every row is computed from the old source matrix, also in place. -/
def Obligations.MsqRule : Prop :=
  ∀ md ms : MReg,
    PlainCommand (.msq md ms) (0x21#8 ++ 0#2 ++ md ++ 0#2 ++ ms ++ 0#16)
      (fun s t => WroteM s t md fun k => gfApply (s.readM ms) (getRow (s.readM ms) k))

/-- R182 and R185; a word with the opcode of MROW and a nonzero bit in `[7:5]` is illegal. -/
def Obligations.MapplyAndMrowRules : Prop :=
  (∀ w : Word, w.extractLsb' 24 8 = 0x25#8 → w.extractLsb' 5 3 ≠ 0#3 →
    decode w = .error .mustBeZero) ∧
  ∀ (rd rs2 : Reg) (ms : MReg) (row : RowIx),
    PlainCommand (.mapply rd ms rs2) (0x22#8 ++ rd ++ 0#2 ++ ms ++ rs2 ++ 0#12)
      (fun s t => WroteX s t rd (gfApply (s.readM ms) (s.readX rs2))) ∧
    PlainCommand (.mrow rd ms row) (0x25#8 ++ rd ++ 0#2 ++ ms ++ 0#11 ++ row)
      (fun s t => WroteX s t rd (getRow (s.readM ms) row))

/-- R186: one row is replaced; the other 31 are unchanged. -/
def Obligations.MsetRule : Prop :=
  ∀ (md : MReg) (rs1 : Reg) (row : RowIx),
    PlainCommand (.mset md rs1 row) (0x26#8 ++ 0#2 ++ md ++ rs1 ++ 0#11 ++ row)
      (fun s t => WroteM s t md fun k => if k = row then s.readX rs1 else getRow (s.readM md) k)

/-- R184. -/
def Obligations.ZpadRule : Prop :=
  ∀ (rd rs1 rs2 : Reg) (dir : Dir),
    PlainCommand (.zpad rd rs1 rs2 dir) (0x24#8 ++ rd ++ rs1 ++ rs2 ++ 0#11 ++ dir.bit)
      (fun s t => WroteX s t rd (zeroPad (s.readX rs1) (s.readX rs2) dir))

/-- R212. -/
def Obligations.ZcrcRule : Prop :=
  ∀ rd rs1 : Reg,
    CheckedCommand (.zcrc rd rs1) (0x30#8 ++ rd ++ rs1 ++ 0#16)
      (fun s => s.readX rs1 ≤ 0x1FFFFFFF#32) .lengthDomain
      (fun s t => WroteX s t rd (oracle (s.readX rs1)))

/-- R232, with the function of R230 on its whole domain. -/
def Obligations.CombRule : Prop :=
  (∀ a b L : Word, L ≤ 0x1FFFFFFF#32 →
    crcCombine a b L = if L = 0#32 then a else zeroPad a (8#32 * L) .fwd ^^^ b) ∧
  ∀ rd rs1 rs2 rs3 : Reg,
    CheckedCommand (.comb rd rs1 rs2 rs3) (0x31#8 ++ rd ++ rs1 ++ rs2 ++ rs3 ++ 0#8)
      (fun s => s.readX rs3 ≤ 0x1FFFFFFF#32) .lengthDomain
      (fun s t => WroteX s t rd (crcCombine (s.readX rs1) (s.readX rs2) (s.readX rs3)))

/-- R233, with the function of R231 for every bit count, a multiple of 8 or not. -/
def Obligations.TrimRule : Prop :=
  (∀ x y n : Word, crcTrim x y n = if n = 0#32 then x else zeroPad (x ^^^ y) n .inv) ∧
  ∀ rd rs1 rs2 rs3 : Reg,
    PlainCommand (.trim rd rs1 rs2 rs3) (0x32#8 ++ rd ++ rs1 ++ rs2 ++ rs3 ++ 0#8)
      (fun s t => WroteX s t rd (crcTrim (s.readX rs1) (s.readX rs2) (s.readX rs3)))

/-- R263. -/
def Obligations.AdvbRule : Prop :=
  ∀ rs1 : Reg,
    CheckedCommand (.advb rs1) (0x40#8 ++ 0#4 ++ rs1 ++ 0#16)
      (fun s => s.readX rs1 ≤ 0x1FFFFFFF#32) .lengthDomain
      (fun s t => WroteTable s t (s.readX rs1))

/-- R265 and R266. -/
def Obligations.PeelAndPeeliRules : Prop :=
  ∀ (rd rs1 rs2 : Reg) (byte : Byte),
    CheckedCommand (.peel rd rs1 rs2) (0x41#8 ++ rd ++ rs1 ++ rs2 ++ 0#12)
      (fun s => s.advValid = true) .advNotBuilt
      (fun s t => WroteX s t rd
        (upd (s.readX rs1) 0x00#8 ^^^ s.readAdv ((s.readX rs2).extractLsb' 0 8))) ∧
    CheckedCommand (.peeli rd rs1 byte) (0x42#8 ++ rd ++ rs1 ++ 0#8 ++ byte)
      (fun s => s.advValid = true) .advNotBuilt
      (fun s t => WroteX s t rd (upd (s.readX rs1) 0x00#8 ^^^ s.readAdv byte))

/-- R267. -/
def Obligations.AdvrRule : Prop :=
  ∀ rd rs1 : Reg,
    CheckedCommand (.advr rd rs1) (0x43#8 ++ rd ++ rs1 ++ 0#16)
      (fun s => s.advValid = true) .advNotBuilt
      (fun s t => WroteX s t rd (s.readAdv ((s.readX rs1).extractLsb' 0 8)))

/-- R121: each pseudo-instruction's expansion, and the effect of the expansion on a ready engine. -/
def Obligations.PseudoInstructionsHaveTheirEffect : Prop :=
  ∀ (d s n : Reg) (md : MReg) (b : Byte) (v : Word),
    (assembleLine ⟨.li, [.x d.toNat, .num v.toNat]⟩ =
        some [.lil d (v.extractLsb' 0 16), .lih d (v.extractLsb' 16 16)] ∧
      Achieves [.lil d (v.extractLsb' 0 16), .lih d (v.extractLsb' 16 16)] (SetsX d fun _ => v)) ∧
    (assembleLine ⟨.clr, [.x d.toNat]⟩ = some [.xor d d d] ∧
      Achieves [.xor d d d] (SetsX d fun _ => 0#32)) ∧
    (assembleLine ⟨.mov, [.x d.toNat, .x s.toNat]⟩ = some [.fin d s, .fin d d] ∧
      Achieves [.fin d s, .fin d d] (SetsX d fun u => u.readX s)) ∧
    (assembleLine ⟨.work, [.x d.toNat, .x s.toNat]⟩ = some [.fin d s] ∧
      Achieves [.fin d s] (SetsX d fun u => u.readX s ^^^ 0xFFFFFFFF#32)) ∧
    (assembleLine ⟨.updz, [.x d.toNat, .x s.toNat]⟩ = some [.updi d s 0x00#8] ∧
      Achieves [.updi d s 0x00#8] (SetsX d fun u => upd (u.readX s) 0x00#8)) ∧
    (assembleLine ⟨.hashi, [.x d.toNat, .num b.toNat]⟩ =
        some [.lil d 0xFFFF#16, .lih d 0xFFFF#16, .updi d d b, .fin d d] ∧
      Achieves [.lil d 0xFFFF#16, .lih d 0xFFFF#16, .updi d d b, .fin d d]
        (SetsX d fun _ => crcHash [b])) ∧
    (d ≠ s →
      assembleLine ⟨.hashb, [.x d.toNat, .x s.toNat]⟩ =
        some [.lil d 0xFFFF#16, .lih d 0xFFFF#16, .upd d d s, .fin d d] ∧
      Achieves [.lil d 0xFFFF#16, .lih d 0xFFFF#16, .upd d d s, .fin d d]
        (SetsX d fun u => crcHash [(u.readX s).extractLsb' 0 8])) ∧
    (assembleLine ⟨.mident, [.m md.toNat]⟩ = some [.xor 15#4 15#4 15#4, .mpow md 15#4 .fwd] ∧
      Achieves [.xor 15#4 15#4 15#4, .mpow md 15#4 .fwd] fun u t =>
        t.readX 15#4 = 0#32 ∧ (∀ r, r ≠ 15#4 → t.readX r = u.readX r) ∧
        (∀ k, getRow (t.readM md) k = 1#32 <<< (31 - k.toNat)) ∧
        ∀ j, j ≠ md → t.readM j = u.readM j) ∧
    (assembleLine ⟨.zpadf, [.x d.toNat, .x s.toNat, .x n.toNat]⟩ = some [.zpad d s n .fwd] ∧
      Achieves [.zpad d s n .fwd] (SetsX d fun u => zeroPad (u.readX s) (u.readX n) .fwd)) ∧
    (assembleLine ⟨.zpadr, [.x d.toNat, .x s.toNat, .x n.toNat]⟩ = some [.zpad d s n .inv] ∧
      Achieves [.zpad d s n .inv] (SetsX d fun u => zeroPad (u.readX s) (u.readX n) .inv))

/-! ## The algebra -/

/-- The construction of the CRC ROM gives the 256 values listed in spec/10_state.md section 4, "derived by
evaluating the construction". -/
def Obligations.RomHoldsTheListedValues : Prop :=
  (List.range 256).map (fun n => tblEntry (BitVec.ofNat 8 n)) = romListing

/-- The linearity laws of the update engine, inferred in spec/40_crc_update.md section 1: "Linearity laws of
the update engine". -/
def Obligations.UpdateIsLinear : Prop :=
  (∀ r₁ r₂ : Word, upd (r₁ ^^^ r₂) 0#8 = upd r₁ 0#8 ^^^ upd r₂ 0#8) ∧
  (∀ (r : Word) (b : Byte), upd r b = upd r 0#8 ^^^ tblEntry b) ∧
  (∀ r : Word, upd r 0#8 = zeroPad r 8#32 .fwd)

/-- The two bit steps as formulas; and the inferences of spec/41_gf2_operator.md section 1 that they undo
each other, why, and that eight forward steps are one byte step: "`inv1` is its inverse". -/
def Obligations.BitStepsAreInverse : Prop :=
  (∀ c : Word, fwd1 c = (c >>> 1) ^^^ (if c.getLsbD 0 = true then 0xEDB88320#32 else 0x00000000#32)) ∧
  (∀ c : Word, inv1 c = (c <<< 1) ^^^ (if c.getLsbD 31 = true then 0xDB710641#32 else 0x00000000#32)) ∧
  (∀ c : Word, inv1 (fwd1 c) = c ∧ fwd1 (inv1 c) = c) ∧
  (∀ c : Word, (fwd1 c).getLsbD 31 = c.getLsbD 0) ∧
  (∀ c : Word, fwd1^[8] c = upd c 0#8) ∧
  0xDB710641#32 = (0xEDB88320#32 <<< 1) ||| 1#32

/-- R170 and R172: row k is the image of the basis vector of bit 31−k, and the product is linear, which
together fix it. -/
def Obligations.ApplyIsLinearOnBasisRows : Prop :=
  ∀ M : BitMatrix32,
    (∀ k : Fin 32, gfApply M (1#32 <<< (31 - k.val)) = M[k]) ∧
    (∀ v₁ v₂ : Word, gfApply M (v₁ ^^^ v₂) = gfApply M v₁ ^^^ gfApply M v₂) ∧
    gfApply M 0#32 = 0#32

/-- R173: the product of matrices, its square, and the identity. -/
def Obligations.MatrixProductComposes : Prop :=
  ∀ A B : BitMatrix32,
    (∀ k : Fin 32, (gfMul A B)[k] = gfApply A B[k]) ∧
    (∀ v : Word, gfApply (gfMul A B) v = gfApply A (gfApply B v)) ∧
    gfSquare A = gfMul A A ∧
    (∀ k : Fin 32, gfIdentity[k] = 1#32 <<< (31 - k.val)) ∧
    (∀ v : Word, gfApply gfIdentity v = v)

/-- The rows of the two base operators, the table of spec/41_gf2_operator.md section 1, whose forward column
the spec infers: "it is derived from rule R171". -/
def Obligations.BaseOperatorRows : Prop :=
  (∀ (dir : Dir) (k : Fin 32), (gfBase dir)[k] = bitStep dir (1#32 <<< (31 - k.val))) ∧
  (∀ k : Fin 32, (gfBase .fwd)[k] = if k.val = 31 then 0xEDB88320#32 else 0x40000000#32 >>> k.val) ∧
  (∀ k : Fin 32,
    (gfBase .inv)[k] = if k.val = 0 then 0xDB710641#32 else 0x80000000#32 >>> (k.val - 1))

/-- R175: `Pow(dir, n)` is the base operator multiplied by itself n times, for every 32-bit n. -/
def Obligations.PowIsTheIteratedProduct : Prop :=
  ∀ (dir : Dir) (n : Word),
    gfPow dir n = (gfMul (gfBase dir))^[n.toNat] gfIdentity ∧
    (∀ v : Word, gfApply (gfPow dir n) v = (bitStep dir)^[n.toNat] v)

/-- The value loop and the matrix loop are one operator, inferred in spec/41_gf2_operator.md section 1:
"`ZeroPad(v, n, dir) = Apply(Pow(dir, n), v)` for every v and n". -/
def Obligations.ZeroPadIsApplyOfPow : Prop :=
  ∀ (v n : Word) (dir : Dir), zeroPad v n dir = gfApply (gfPow dir n) v

/-- The laws (a) to (e) of the operator engine, inferred in spec/41_gf2_operator.md section 1: "Laws of the
operator engine". -/
def Obligations.OperatorEngineLaws : Prop :=
  (∀ v n : Word, zeroPad (zeroPad v n .fwd) n .inv = v ∧ zeroPad (zeroPad v n .inv) n .fwd = v) ∧
  (∀ (v n₁ n₂ : Word) (dir : Dir), n₁.toNat + n₂.toNat ≤ 2 ^ 32 - 1 →
    zeroPad (zeroPad v n₁ dir) n₂ dir = zeroPad v (n₁ + n₂) dir) ∧
  (∀ (v₁ v₂ n : Word) (dir : Dir),
    zeroPad (v₁ ^^^ v₂) n dir = zeroPad v₁ n dir ^^^ zeroPad v₂ n dir ∧
    zeroPad 0#32 n dir = 0#32) ∧
  ((∀ v : Word, gfApply (gfPow .fwd 8#32) v = upd v 0#8) ∧
    (∀ k : Fin 32, k.val < 24 → (gfPow .fwd 8#32)[k] = 0x00800000#32 >>> k.val) ∧
    (gfPow .fwd 8#32).toList.drop 24 =
      [0xEDB88320, 0x76DC4190, 0x3B6E20C8, 0x1DB71064, 0x0EDB8832, 0x076DC419, 0xEE0E612C,
       0x77073096]) ∧
  (∀ dir : Dir, gfPow dir 0xFFFFFFFF#32 = gfIdentity ∧
    ∀ v : Word, zeroPad v 0xFFFFFFFF#32 dir = v)

/-- The oracle is the CRC of a run of zero bytes, has the closed form, and is additive: the laws (a), (b)
and (c) inferred in spec/42_zero_run_oracle.md section 1, "Laws of the oracle". -/
def Obligations.OracleIsTheCrcOfZeroBytes : Prop :=
  (∀ L : Word, L ≤ 0x1FFFFFFF#32 → oracle L = crcHash (List.replicate L.toNat 0x00#8)) ∧
  (∀ L : Word, L ≤ 0x1FFFFFFF#32 →
    oracle L = zeroPad 0xFFFFFFFF#32 (8#32 * L) .fwd ^^^ 0xFFFFFFFF#32) ∧
  (∀ L₁ L₂ : Word, L₁.toNat + L₂.toNat ≤ 0x1FFFFFFF →
    oracle (L₁ + L₂) = crcCombine (oracle L₁) (oracle L₂) L₂)

/-- The concatenation law on public values; feeding bytes to the register is affine in it; and how far the
same formula on working forms is off: spec/43_combine_trim.md section 1, "The concatenation law", the last
two inferred there. -/
def Obligations.CombineIsConcatenation : Prop :=
  ∀ A B : List Byte, B.length ≤ 0x1FFFFFFF →
    crcHash (A ++ B) = crcCombine (crcHash A) (crcHash B) (BitVec.ofNat 32 B.length) ∧
    (∀ r : Word, B.foldl upd r =
      zeroPad r (8#32 * BitVec.ofNat 32 B.length) .fwd ^^^ B.foldl upd 0#32) ∧
    zeroPad (working A) (8#32 * BitVec.ofNat 32 B.length) .fwd ^^^ working B =
      crcHash (A ++ B) ^^^
        (zeroPad 0xFFFFFFFF#32 (8#32 * BitVec.ofNat 32 B.length) .fwd ^^^ 0xFFFFFFFF#32)

/-- Trimming undoes combining and combining undoes trimming, lengths in bytes and in bits; with the same
number in both places it fails; a length 0 gives the first operand back: spec/43_combine_trim.md section 1,
"The inverse law, with the length units made explicit", inferred there. -/
def Obligations.TrimAndCombineAreInverse : Prop :=
  (∀ a b x y L : Word, L ≤ 0x1FFFFFFF#32 →
    crcTrim (crcCombine a b L) b (8#32 * L) = a ∧ crcCombine (crcTrim x y (8#32 * L)) y L = x) ∧
  (∃ a b : Word, crcTrim (crcCombine a b 6#32) b 6#32 ≠ a) ∧
  (∀ x y : Word, crcTrim x y 0#32 = x) ∧
  (∀ a b : Word, crcCombine a b 0#32 = a)

/-- The entry of the advance table by its definition and in closed form, and the peel by the table equal to
the plain operator path: spec/44_advance_table.md section 1, "The advance-table consistency law", the
closed form and the law inferred there. -/
def Obligations.AdvanceTableMatchesOperatorPath : Prop :=
  ∀ (S : Word) (b : Byte), S ≤ 0x1FFFFFFF#32 →
    advEntry S b = crcCombine (crcHash [b]) (oracle S) S ^^^ oracle S ∧
    advEntry S b = zeroPad (crcHash [b]) (8#32 * S) .fwd ∧
    advEntry 0#32 b = crcHash [b] ∧
    (∀ (s : State) (r : Word), s.HoldsTable S →
      s.peelStep r b = upd r 0x00#8 ^^^ zeroPad (crcHash [b]) (8#32 * S) .fwd)

/-- The peel invariant, for one byte and for a prefix, inferred in spec/44_advance_table.md section 1: "The
peel invariant". -/
def Obligations.PeelMovesTheStreamOn : Prop :=
  ∀ (s : State) (S : Word), s.HoldsTable S → S ≤ 0x1FFFFFFF#32 →
    (∀ (b : Byte) (Y : List Byte), (b :: Y).length = S.toNat →
      s.peelStep (working (b :: Y)) b = working (Y ++ [0x00#8])) ∧
    (∀ P Q : List Byte, (P ++ Q).length = S.toNat →
      P.foldl s.peelStep (working (P ++ Q)) = working (Q ++ List.replicate P.length 0x00#8))

/-- The functions of the engine, in the order of spec/70_reset_and_hazards.md section 2, give the CRC of a
stream's suffix from the CRC of the whole and the bytes of its prefix: to working form, peel, finalize,
trim the zero padding (inferred there: "the result is `hash(S[p:])`"). -/
def Obligations.SuffixCrcFromWholeAndPrefix : Prop :=
  ∀ (s : State) (S : Word) (P Q : List Byte), s.HoldsTable S → S ≤ 0x1FFFFFFF#32 →
    (P ++ Q).length = S.toNat → P.length < S.toNat →
    crcTrim (P.foldl s.peelStep (crcHash (P ++ Q) ^^^ 0xFFFFFFFF#32) ^^^ 0xFFFFFFFF#32)
      (oracle (BitVec.ofNat 32 P.length)) (8#32 * BitVec.ofNat 32 P.length) = crcHash Q

/-- R141 and R142: the update function on the CRC ROM, and the hash as a fold of it between INIT and
XOROUT, with the working form before the final XOR. -/
def Obligations.UpdateAndHashFormulas : Prop :=
  (∀ (r : Word) (b : Byte),
    upd r b = tblEntry ((r ^^^ b.setWidth 32).extractLsb' 0 8) ^^^ (r >>> 8)) ∧
  (∀ s : List Byte, crcHash s = s.foldl upd 0xFFFFFFFF#32 ^^^ 0xFFFFFFFF#32) ∧
  (∀ s : List Byte, working s = crcHash s ^^^ 0xFFFFFFFF#32)
end

