-- ==== Sys2Proof/Laws/State.lean ====
section
/-!
SUPPORT. What each update of the state does to each field: one lemma per field per update, so that no
proof unfolds a record update.
-/

namespace Sys2Proof.Machine

variable (s : State)

/-! ### `State.writeX` -/

@[simp] theorem State.writeX_x (r : Reg) (v : Word) : (s.writeX r v).x = s.x.set r.toNat v r.isLt := rfl
@[simp] theorem State.writeX_m (r : Reg) (v : Word) : (s.writeX r v).m = s.m := rfl
@[simp] theorem State.writeX_adv (r : Reg) (v : Word) : (s.writeX r v).adv = s.adv := rfl
@[simp] theorem State.writeX_busy (r : Reg) (v : Word) : (s.writeX r v).busy = s.busy := rfl
@[simp] theorem State.writeX_advValid (r : Reg) (v : Word) : (s.writeX r v).advValid = s.advValid := rfl
@[simp] theorem State.writeX_err (r : Reg) (v : Word) : (s.writeX r v).err = s.err := rfl
@[simp] theorem State.writeX_errcmd (r : Reg) (v : Word) : (s.writeX r v).errcmd = s.errcmd := rfl
@[simp] theorem State.writeX_advs (r : Reg) (v : Word) : (s.writeX r v).advs = s.advs := rfl
@[simp] theorem State.writeX_pend (r : Reg) (v : Word) : (s.writeX r v).pend = s.pend := rfl
@[simp] theorem State.writeX_rdata (r : Reg) (v : Word) : (s.writeX r v).rdata = s.rdata := rfl
@[simp] theorem State.writeX_draws (r : Reg) (v : Word) : (s.writeX r v).draws = s.draws := rfl
@[simp] theorem State.writeX_schedule (r : Reg) (v : Word) : (s.writeX r v).schedule = s.schedule := rfl

/-! ### `State.writeM` -/

@[simp] theorem State.writeM_x (j : MReg) (M : BitMatrix32) : (s.writeM j M).x = s.x := rfl
@[simp] theorem State.writeM_m (j : MReg) (M : BitMatrix32) : (s.writeM j M).m = s.m.set j.toNat M j.isLt := rfl
@[simp] theorem State.writeM_adv (j : MReg) (M : BitMatrix32) : (s.writeM j M).adv = s.adv := rfl
@[simp] theorem State.writeM_busy (j : MReg) (M : BitMatrix32) : (s.writeM j M).busy = s.busy := rfl
@[simp] theorem State.writeM_advValid (j : MReg) (M : BitMatrix32) : (s.writeM j M).advValid = s.advValid := rfl
@[simp] theorem State.writeM_err (j : MReg) (M : BitMatrix32) : (s.writeM j M).err = s.err := rfl
@[simp] theorem State.writeM_errcmd (j : MReg) (M : BitMatrix32) : (s.writeM j M).errcmd = s.errcmd := rfl
@[simp] theorem State.writeM_advs (j : MReg) (M : BitMatrix32) : (s.writeM j M).advs = s.advs := rfl
@[simp] theorem State.writeM_pend (j : MReg) (M : BitMatrix32) : (s.writeM j M).pend = s.pend := rfl
@[simp] theorem State.writeM_rdata (j : MReg) (M : BitMatrix32) : (s.writeM j M).rdata = s.rdata := rfl
@[simp] theorem State.writeM_draws (j : MReg) (M : BitMatrix32) : (s.writeM j M).draws = s.draws := rfl
@[simp] theorem State.writeM_schedule (j : MReg) (M : BitMatrix32) : (s.writeM j M).schedule = s.schedule := rfl

/-! ### `State.retire` -/

@[simp] theorem State.retire_x : (s.retire).x = s.x := rfl
@[simp] theorem State.retire_m : (s.retire).m = s.m := rfl
@[simp] theorem State.retire_adv : (s.retire).adv = s.adv := rfl
@[simp] theorem State.retire_busy : (s.retire).busy = s.busy := rfl
@[simp] theorem State.retire_advValid : (s.retire).advValid = s.advValid := rfl
@[simp] theorem State.retire_err : (s.retire).err = s.err := rfl
@[simp] theorem State.retire_errcmd : (s.retire).errcmd = s.errcmd := rfl
@[simp] theorem State.retire_advs : (s.retire).advs = s.advs := rfl
@[simp] theorem State.retire_pend : (s.retire).pend = s.pend := rfl
@[simp] theorem State.retire_rdata : (s.retire).rdata = s.rdata := rfl
@[simp] theorem State.retire_draws : (s.retire).draws = s.draws := rfl
@[simp] theorem State.retire_schedule : (s.retire).schedule = s.schedule.tail := rfl

/-! ### `State.clearError` -/

@[simp] theorem State.clearError_x : (s.clearError).x = s.x := rfl
@[simp] theorem State.clearError_m : (s.clearError).m = s.m := rfl
@[simp] theorem State.clearError_adv : (s.clearError).adv = s.adv := rfl
@[simp] theorem State.clearError_busy : (s.clearError).busy = s.busy := rfl
@[simp] theorem State.clearError_advValid : (s.clearError).advValid = s.advValid := rfl
@[simp] theorem State.clearError_err : (s.clearError).err = .noError := rfl
@[simp] theorem State.clearError_errcmd : (s.clearError).errcmd = 0#32 := rfl
@[simp] theorem State.clearError_advs : (s.clearError).advs = s.advs := rfl
@[simp] theorem State.clearError_pend : (s.clearError).pend = s.pend := rfl
@[simp] theorem State.clearError_rdata : (s.clearError).rdata = s.rdata := rfl
@[simp] theorem State.clearError_draws : (s.clearError).draws = s.draws := rfl
@[simp] theorem State.clearError_schedule : (s.clearError).schedule = s.schedule := rfl

/-! ### `State.accept` -/

@[simp] theorem State.accept_x (w : Word) : (s.accept w).x = s.x := rfl
@[simp] theorem State.accept_m (w : Word) : (s.accept w).m = s.m := rfl
@[simp] theorem State.accept_adv (w : Word) : (s.accept w).adv = s.adv := rfl
@[simp] theorem State.accept_busy (w : Word) : (s.accept w).busy = true := rfl
@[simp] theorem State.accept_advValid (w : Word) : (s.accept w).advValid = s.advValid := rfl
@[simp] theorem State.accept_err (w : Word) : (s.accept w).err = s.err := rfl
@[simp] theorem State.accept_errcmd (w : Word) : (s.accept w).errcmd = s.errcmd := rfl
@[simp] theorem State.accept_advs (w : Word) : (s.accept w).advs = s.advs := rfl
@[simp] theorem State.accept_pend (w : Word) : (s.accept w).pend = w := rfl
@[simp] theorem State.accept_rdata (w : Word) : (s.accept w).rdata = s.rdata := rfl
@[simp] theorem State.accept_draws (w : Word) : (s.accept w).draws = s.draws := rfl
@[simp] theorem State.accept_schedule (w : Word) : (s.accept w).schedule = s.schedule := rfl

/-! ### `State.finish` -/

@[simp] theorem State.finish_x : (s.finish).x = s.x := rfl
@[simp] theorem State.finish_m : (s.finish).m = s.m := rfl
@[simp] theorem State.finish_adv : (s.finish).adv = s.adv := rfl
@[simp] theorem State.finish_busy : (s.finish).busy = false := rfl
@[simp] theorem State.finish_advValid : (s.finish).advValid = s.advValid := rfl
@[simp] theorem State.finish_err : (s.finish).err = s.err := rfl
@[simp] theorem State.finish_errcmd : (s.finish).errcmd = s.errcmd := rfl
@[simp] theorem State.finish_advs : (s.finish).advs = s.advs := rfl
@[simp] theorem State.finish_pend : (s.finish).pend = s.pend := rfl
@[simp] theorem State.finish_rdata : (s.finish).rdata = s.rdata := rfl
@[simp] theorem State.finish_draws : (s.finish).draws = s.draws := rfl
@[simp] theorem State.finish_schedule : (s.finish).schedule = s.schedule := rfl

/-! ### `State.buildAdv` -/

@[simp] theorem State.buildAdv_x (S : Word) : (s.buildAdv S).x = s.x := by
  simp only [State.buildAdv]
@[simp] theorem State.buildAdv_m (S : Word) : (s.buildAdv S).m = s.m := by
  simp only [State.buildAdv]
@[simp] theorem State.buildAdv_adv (S : Word) : (s.buildAdv S).adv = advTable S := by
  simp only [State.buildAdv]
@[simp] theorem State.buildAdv_busy (S : Word) : (s.buildAdv S).busy = s.busy := by
  simp only [State.buildAdv]
@[simp] theorem State.buildAdv_advValid (S : Word) : (s.buildAdv S).advValid = true := by
  simp only [State.buildAdv]
@[simp] theorem State.buildAdv_err (S : Word) : (s.buildAdv S).err = s.err := by
  simp only [State.buildAdv]
@[simp] theorem State.buildAdv_errcmd (S : Word) : (s.buildAdv S).errcmd = s.errcmd := by
  simp only [State.buildAdv]
@[simp] theorem State.buildAdv_advs (S : Word) : (s.buildAdv S).advs = S := by
  simp only [State.buildAdv]
@[simp] theorem State.buildAdv_pend (S : Word) : (s.buildAdv S).pend = s.pend := by
  simp only [State.buildAdv]
@[simp] theorem State.buildAdv_rdata (S : Word) : (s.buildAdv S).rdata = s.rdata := by
  simp only [State.buildAdv]
@[simp] theorem State.buildAdv_draws (S : Word) : (s.buildAdv S).draws = s.draws := by
  simp only [State.buildAdv]
@[simp] theorem State.buildAdv_schedule (S : Word) : (s.buildAdv S).schedule = s.schedule := by
  simp only [State.buildAdv]

/-! ### `State.answer` -/

@[simp] theorem State.answer_x (v : Word) : (s.answer v).x = s.x := rfl
@[simp] theorem State.answer_m (v : Word) : (s.answer v).m = s.m := rfl
@[simp] theorem State.answer_adv (v : Word) : (s.answer v).adv = s.adv := rfl
@[simp] theorem State.answer_busy (v : Word) : (s.answer v).busy = s.busy := rfl
@[simp] theorem State.answer_advValid (v : Word) : (s.answer v).advValid = s.advValid := rfl
@[simp] theorem State.answer_err (v : Word) : (s.answer v).err = s.err := rfl
@[simp] theorem State.answer_errcmd (v : Word) : (s.answer v).errcmd = s.errcmd := rfl
@[simp] theorem State.answer_advs (v : Word) : (s.answer v).advs = s.advs := rfl
@[simp] theorem State.answer_pend (v : Word) : (s.answer v).pend = s.pend := rfl
@[simp] theorem State.answer_rdata (v : Word) : (s.answer v).rdata = v := rfl
@[simp] theorem State.answer_draws (v : Word) : (s.answer v).draws = s.draws := rfl
@[simp] theorem State.answer_schedule (v : Word) : (s.answer v).schedule = s.schedule := rfl

/-! ### `State.powerOn`: the engine's fields as after reset, the environment's as before (R360, R361) -/

@[simp] theorem State.powerOn_x : s.powerOn.x = State.reset.x := rfl
@[simp] theorem State.powerOn_m : s.powerOn.m = State.reset.m := rfl
@[simp] theorem State.powerOn_adv : s.powerOn.adv = State.reset.adv := rfl
@[simp] theorem State.powerOn_busy : s.powerOn.busy = State.reset.busy := rfl
@[simp] theorem State.powerOn_advValid : s.powerOn.advValid = State.reset.advValid := rfl
@[simp] theorem State.powerOn_err : s.powerOn.err = State.reset.err := rfl
@[simp] theorem State.powerOn_errcmd : s.powerOn.errcmd = State.reset.errcmd := rfl
@[simp] theorem State.powerOn_advs : s.powerOn.advs = State.reset.advs := rfl
@[simp] theorem State.powerOn_pend : s.powerOn.pend = State.reset.pend := rfl
@[simp] theorem State.powerOn_rdata : s.powerOn.rdata = s.rdata := rfl
@[simp] theorem State.powerOn_draws : s.powerOn.draws = s.draws := rfl
@[simp] theorem State.powerOn_schedule : s.powerOn.schedule = s.schedule := rfl

/-! ### `State.raise`: only ERR and ERRCMD, and only if ERR was 0 (R326) -/

@[simp] theorem State.raise_x (e : ErrCode) (w : Word) : (s.raise e w).x = s.x := by
  unfold State.raise; split <;> rfl
@[simp] theorem State.raise_m (e : ErrCode) (w : Word) : (s.raise e w).m = s.m := by
  unfold State.raise; split <;> rfl
@[simp] theorem State.raise_adv (e : ErrCode) (w : Word) : (s.raise e w).adv = s.adv := by
  unfold State.raise; split <;> rfl
@[simp] theorem State.raise_busy (e : ErrCode) (w : Word) : (s.raise e w).busy = s.busy := by
  unfold State.raise; split <;> rfl
@[simp] theorem State.raise_advValid (e : ErrCode) (w : Word) : (s.raise e w).advValid = s.advValid := by
  unfold State.raise; split <;> rfl
theorem State.raise_err (e : ErrCode) (w : Word) :
    (s.raise e w).err = if s.err = .noError then e else s.err := by
  unfold State.raise; split <;> rfl
theorem State.raise_errcmd (e : ErrCode) (w : Word) :
    (s.raise e w).errcmd = if s.err = .noError then w else s.errcmd := by
  unfold State.raise; split <;> rfl
@[simp] theorem State.raise_advs (e : ErrCode) (w : Word) : (s.raise e w).advs = s.advs := by
  unfold State.raise; split <;> rfl
@[simp] theorem State.raise_pend (e : ErrCode) (w : Word) : (s.raise e w).pend = s.pend := by
  unfold State.raise; split <;> rfl
@[simp] theorem State.raise_rdata (e : ErrCode) (w : Word) : (s.raise e w).rdata = s.rdata := by
  unfold State.raise; split <;> rfl
@[simp] theorem State.raise_draws (e : ErrCode) (w : Word) : (s.raise e w).draws = s.draws := by
  unfold State.raise; split <;> rfl
@[simp] theorem State.raise_schedule (e : ErrCode) (w : Word) : (s.raise e w).schedule = s.schedule := by
  unfold State.raise; split <;> rfl

/-! ### `State.answerIfIdle`: only what the host sees (R76) -/

@[simp] theorem State.answerIfIdle_x (v : Word) : (s.answerIfIdle v).x = s.x := by
  unfold State.answerIfIdle; split <;> rfl
@[simp] theorem State.answerIfIdle_m (v : Word) : (s.answerIfIdle v).m = s.m := by
  unfold State.answerIfIdle; split <;> rfl
@[simp] theorem State.answerIfIdle_adv (v : Word) : (s.answerIfIdle v).adv = s.adv := by
  unfold State.answerIfIdle; split <;> rfl
@[simp] theorem State.answerIfIdle_busy (v : Word) : (s.answerIfIdle v).busy = s.busy := by
  unfold State.answerIfIdle; split <;> rfl
@[simp] theorem State.answerIfIdle_advValid (v : Word) : (s.answerIfIdle v).advValid = s.advValid := by
  unfold State.answerIfIdle; split <;> rfl
@[simp] theorem State.answerIfIdle_err (v : Word) : (s.answerIfIdle v).err = s.err := by
  unfold State.answerIfIdle; split <;> rfl
@[simp] theorem State.answerIfIdle_errcmd (v : Word) : (s.answerIfIdle v).errcmd = s.errcmd := by
  unfold State.answerIfIdle; split <;> rfl
@[simp] theorem State.answerIfIdle_advs (v : Word) : (s.answerIfIdle v).advs = s.advs := by
  unfold State.answerIfIdle; split <;> rfl
@[simp] theorem State.answerIfIdle_pend (v : Word) : (s.answerIfIdle v).pend = s.pend := by
  unfold State.answerIfIdle; split <;> rfl
theorem State.answerIfIdle_rdata (v : Word) :
    (s.answerIfIdle v).rdata = if s.busy then Config.busyRead s.draws else v := by
  unfold State.answerIfIdle; split <;> rfl
theorem State.answerIfIdle_draws (v : Word) :
    (s.answerIfIdle v).draws = if s.busy then s.draws + 1 else s.draws := by
  unfold State.answerIfIdle; split <;> rfl
@[simp] theorem State.answerIfIdle_schedule (v : Word) : (s.answerIfIdle v).schedule = s.schedule := by
  unfold State.answerIfIdle; split <;> rfl

/-! ### Reading a register after an update -/

theorem State.readX_writeX (r q : Reg) (v : Word) :
    (s.writeX r v).readX q = if q = r then v else s.readX q := by
  unfold State.readX
  simp only [State.writeX_x, Vector.getElem_set, BitVec.toNat_inj, eq_comm]

@[simp] theorem State.readX_writeX_same (r : Reg) (v : Word) : (s.writeX r v).readX r = v := by
  simp [State.readX_writeX]

theorem State.readX_writeX_other (r q : Reg) (v : Word) (h : q ≠ r) :
    (s.writeX r v).readX q = s.readX q := by
  simp [State.readX_writeX, h]

theorem State.readM_writeM (j k : MReg) (M : BitMatrix32) :
    (s.writeM j M).readM k = if k = j then M else s.readM k := by
  unfold State.readM
  simp only [State.writeM_m, Vector.getElem_set, BitVec.toNat_inj, eq_comm]

@[simp] theorem State.readM_writeM_same (j : MReg) (M : BitMatrix32) : (s.writeM j M).readM j = M := by
  simp [State.readM_writeM]

theorem State.readM_writeM_other (j k : MReg) (M : BitMatrix32) (h : k ≠ j) :
    (s.writeM j M).readM k = s.readM k := by
  simp [State.readM_writeM, h]

theorem getRow_setRow (M : BitMatrix32) (k q : RowIx) (v : Word) :
    getRow (setRow M k v) q = if q = k then v else getRow M q := by
  unfold getRow setRow
  simp only [Vector.getElem_set, BitVec.toNat_inj, eq_comm]

@[simp] theorem State.readAdv_buildAdv (S : Word) (b : Byte) :
    (s.buildAdv S).readAdv b = advEntry S b := by
  unfold State.readAdv
  simp [advTable]

/-- A register read looks at `x` alone. -/
theorem State.readX_congr (s t : State) (h : t.x = s.x) (r : Reg) : t.readX r = s.readX r := by
  unfold State.readX; simp [h]

/-- A matrix read looks at `m` alone. -/
theorem State.readM_congr (s t : State) (h : t.m = s.m) (j : MReg) : t.readM j = s.readM j := by
  unfold State.readM; simp [h]

/-- A table read looks at `adv` alone. -/
theorem State.readAdv_congr (s t : State) (h : t.adv = s.adv) (b : Byte) : t.readAdv b = s.readAdv b := by
  unfold State.readAdv; simp [h]

end Sys2Proof.Machine
end

