-- ==== Sys2Proof/Laws/Ops.lean ====
section
/-!
SUPPORT. What each shared operation can do, said once: issue, the life of a command, the port, and one
step.
-/

namespace Sys2Proof.Machine

/-! ### Issue (R80 steps 4 and 5) -/

/-- Issue raises the command's own error or accepts its word, and does nothing else. -/
theorem issue_cases (i : Instr) (s : State) :
    (∃ e, issueCheck i s = some e ∧ issue i s = s.raise e (encode i)) ∨
    (issueCheck i s = none ∧ issue i s = s.accept (encode i)) := by
  unfold issue
  cases h : issueCheck i s with
  | none => exact .inr ⟨rfl, rfl⟩
  | some e => exact .inl ⟨e, rfl, rfl⟩

/-- A raise in a state without an error records it. -/
theorem State.raise_of_noError (s : State) (e : ErrCode) (w : Word) (h : s.err = .noError) :
    s.raise e w = { s with err := e, errcmd := w } := if_pos h

/-- A raise in a state with an error changes nothing. -/
theorem State.raise_of_error (s : State) (e : ErrCode) (w : Word) (h : s.err ≠ .noError) :
    s.raise e w = s := if_neg h

/-! ### The life of a command (R80, R81) -/

theorem command_inFlight (i : Instr) (f : State → State) (s : State) (h : s.busy = true) :
    command i f s = .next (f s).finish.retire := if_pos h

theorem command_idle (i : Instr) (f : State → State) (s : State) (h : s.busy = false) :
    command i f s = .next (issue i s).retire := by
  simp [command, h]

/-- A command answers a next state, its issue or its completion. -/
theorem command_cases (i : Instr) (f : State → State) (s t : State) (h : command i f s = .next t) :
    (s.busy = false ∧ t = (issue i s).retire) ∨ (s.busy = true ∧ t = (f s).finish.retire) := by
  unfold command at h
  split at h
  · exact .inr ⟨‹_›, by simpa using h.symm⟩
  · exact .inl ⟨Bool.eq_false_iff.mpr ‹_›, by simpa using h.symm⟩

/-- The effect of a command writes nothing, one general register, one matrix register, or (ADVB) the
advance table: the four kinds of completion. -/
def EffectKind (i : Instr) (s u : State) : Prop :=
  u = s ∨ (∃ rd v, u = s.writeX rd v) ∨ (∃ md M, u = s.writeM md M) ∨
  (∃ rs1, i = .advb rs1 ∧ u = s.buildAdv (s.readX rs1))

/-- Every meaning is the life of its own command, with an effect of one of the four kinds. -/
theorem exec_eq_command (i : Instr) :
    ∃ f : State → State, (∀ s, exec i s = command i f s) ∧ ∀ s, EffectKind i s (f s) := by
  cases i
  case nop => exact ⟨_, fun _ => rfl, fun _ => .inl rfl⟩
  case chklen => exact ⟨_, fun _ => rfl, fun _ => .inl rfl⟩
  case mbase => exact ⟨_, fun _ => rfl, fun _ => .inr (.inr (.inl ⟨_, _, rfl⟩))⟩
  case msq => exact ⟨_, fun _ => rfl, fun _ => .inr (.inr (.inl ⟨_, _, rfl⟩))⟩
  case mpow => exact ⟨_, fun _ => rfl, fun _ => .inr (.inr (.inl ⟨_, _, rfl⟩))⟩
  case mset => exact ⟨_, fun _ => rfl, fun _ => .inr (.inr (.inl ⟨_, _, rfl⟩))⟩
  case advb => exact ⟨_, fun _ => rfl, fun _ => .inr (.inr (.inr ⟨_, rfl, rfl⟩))⟩
  all_goals exact ⟨_, fun _ => rfl, fun _ => .inr (.inl ⟨_, _, rfl⟩)⟩

/-- All that `exec` can do: with `BUSY = 0` the issue, with `BUSY = 1` a completion of one of the four
kinds. It never stops. -/
theorem exec_cases (i : Instr) (s : State) :
    (s.busy = false ∧ exec i s = .next (issue i s).retire) ∨
    (s.busy = true ∧ ∃ u, EffectKind i s u ∧ exec i s = .next u.finish.retire) := by
  obtain ⟨f, hf, hk⟩ := exec_eq_command i
  cases hb : s.busy with
  | false => exact .inl ⟨rfl, by rw [hf, command_idle i f s hb]⟩
  | true => exact .inr ⟨rfl, f s, hk s, by rw [hf, command_inFlight i f s hb]⟩

/-! ### The port -/

/-- A host read changes only what the host sees. -/
theorem hostRead_cases (a : HostAddr) (s : State) :
    (∃ v, hostRead a s = s.answer v) ∨ (∃ v, hostRead a s = s.answerIfIdle v) := by
  unfold hostRead
  split
  case h_1 => exact .inr ⟨_, rfl⟩
  case h_4 => exact .inr ⟨_, rfl⟩
  case h_5 => exact .inr ⟨_, rfl⟩
  all_goals exact .inl ⟨_, rfl⟩

theorem portReg_x (r : Reg) : portReg (0#4 ++ r) = .x r := by
  revert r; decide

/-- The eight cases of a host write. -/
theorem hostWrite_cases (a : HostAddr) (v : Word) (s : State) :
    (∃ r, portReg a = .x r ∧ s.busy = true ∧ hostWrite a v s = .settle (s.raise .overrun 0#32).retire) ∨
    (∃ r, portReg a = .x r ∧ s.busy = false ∧ hostWrite a v s = .settle (s.writeX r v).retire) ∨
    (portReg a = .cmd ∧ hostWrite a v s = issueWord v s) ∨
    (portReg a = .status ∧ hostWrite a v s = .settle s.clearError.retire) ∨
    hostWrite a v s = .settle s.retire := by
  unfold hostWrite
  cases h : portReg a with
  | x r =>
    cases hb : s.busy with
    | true => exact .inl ⟨r, rfl, rfl, by simp⟩
    | false => exact .inr (.inl ⟨r, rfl, rfl, by simp⟩)
  | cmd => exact .inr (.inr (.inl ⟨rfl, rfl⟩))
  | status => exact .inr (.inr (.inr (.inl ⟨rfl, rfl⟩)))
  | errcmd => exact .inr (.inr (.inr (.inr rfl)))
  | advs => exact .inr (.inr (.inr (.inr rfl)))
  | poly => exact .inr (.inr (.inr (.inr rfl)))
  | maxLen => exact .inr (.inr (.inr (.inr rfl)))
  | reserved => exact .inr (.inr (.inr (.inr rfl)))

/-- The four cases of a word written to CMD (R80 steps 1–3). -/
theorem issueWord_cases (w : Word) (s : State) :
    (s.busy = true ∧ issueWord w s = .settle (s.raise .overrun w).retire) ∨
    (s.busy = false ∧ s.err ≠ .noError ∧ issueWord w s = .settle s.retire) ∨
    (s.busy = false ∧ s.err = .noError ∧ (∃ e, decode w = .error e) ∧
      issueWord w s = .settle (s.raise .illegal w).retire) ∨
    (s.busy = false ∧ s.err = .noError ∧ ∃ i, decode w = .ok i ∧ issueWord w s = .run i) := by
  unfold issueWord
  cases hb : s.busy with
  | true => exact .inl ⟨rfl, by simp⟩
  | false =>
    by_cases he : s.err = .noError
    · cases hd : decode w with
      | error e => exact .inr (.inr (.inl ⟨rfl, he, ⟨e, rfl⟩, by simp [he]⟩))
      | ok i => exact .inr (.inr (.inr ⟨rfl, he, i, rfl, by simp [he]⟩))
    · exact .inr (.inl ⟨rfl, he, by simp [he]⟩)

/-- The three cases of the engine's turn (R30, R81). -/
theorem engineTurn_cases (s : State) :
    (s.busy = false ∧ engineTurn s = .settle s.retire) ∨
    (s.busy = true ∧ ∃ i, decode s.pend = .ok i ∧ engineTurn s = .run i) ∨
    (s.busy = true ∧ (∃ e, decode s.pend = .error e) ∧ engineTurn s = .stop .pendNotACommand) := by
  unfold engineTurn
  cases hb : s.busy with
  | false => exact .inl ⟨rfl, by simp⟩
  | true =>
    cases hd : decode s.pend with
    | ok i => exact .inr (.inl ⟨rfl, i, rfl, by simp⟩)
    | error e => exact .inr (.inr ⟨rfl, ⟨e, rfl⟩, by simp⟩)

end Sys2Proof.Machine
end

