-- ==== Sys2Proof/Laws/PerInstr.lean ====
section
/-!
SUPPORT. The families of statements about every command, one lemma per constructor of `Instr`.
-/

namespace Sys2Proof.Laws

/-- The opcode column of R110. -/
def opcodeColumn : Instr → BitVec 8
  | .nop => 0x00#8
  | .lil _ _ => 0x01#8
  | .lih _ _ => 0x02#8
  | .xor _ _ _ => 0x03#8
  | .fin _ _ => 0x04#8
  | .chklen _ _ => 0x05#8
  | .upd _ _ _ => 0x10#8
  | .updi _ _ _ => 0x11#8
  | .tbl _ _ => 0x12#8
  | .mbase _ _ => 0x20#8
  | .msq _ _ => 0x21#8
  | .mapply _ _ _ => 0x22#8
  | .mpow _ _ _ => 0x23#8
  | .zpad _ _ _ _ => 0x24#8
  | .mrow _ _ _ => 0x25#8
  | .mset _ _ _ => 0x26#8
  | .zcrc _ _ => 0x30#8
  | .comb _ _ _ _ => 0x31#8
  | .trim _ _ _ _ => 0x32#8
  | .advb _ => 0x40#8
  | .peel _ _ _ => 0x41#8
  | .peeli _ _ _ => 0x42#8
  | .advr _ _ => 0x43#8

namespace Opcode

/-- Bits `[31:24]` of a command's word hold its opcode (R101, R110). -/
def Statement (i : Instr) : Prop := opcodeOf (encode i) = opcodeColumn i

theorem nop : Statement (.nop) := by
  rfl

theorem lil (rd : Reg) (imm16 : BitVec 16) : Statement (.lil rd imm16) := by
  simp only [Statement, encode, opcodeOf, opcodeColumn]
  repeat erw [BitVec.extractLsb'_append_eq_of_le (by decide)]
  rfl

theorem lih (rd : Reg) (imm16 : BitVec 16) : Statement (.lih rd imm16) := by
  simp only [Statement, encode, opcodeOf, opcodeColumn]
  repeat erw [BitVec.extractLsb'_append_eq_of_le (by decide)]
  rfl

theorem xor (rd rs1 rs2 : Reg) : Statement (.xor rd rs1 rs2) := by
  simp only [Statement, encode, opcodeOf, opcodeColumn]
  repeat erw [BitVec.extractLsb'_append_eq_of_le (by decide)]
  rfl

theorem fin (rd rs1 : Reg) : Statement (.fin rd rs1) := by
  simp only [Statement, encode, opcodeOf, opcodeColumn]
  repeat erw [BitVec.extractLsb'_append_eq_of_le (by decide)]
  rfl

theorem chklen (rs1 rs2 : Reg) : Statement (.chklen rs1 rs2) := by
  simp only [Statement, encode, opcodeOf, opcodeColumn]
  repeat erw [BitVec.extractLsb'_append_eq_of_le (by decide)]
  rfl

theorem upd (rd rs1 rs2 : Reg) : Statement (.upd rd rs1 rs2) := by
  simp only [Statement, encode, opcodeOf, opcodeColumn]
  repeat erw [BitVec.extractLsb'_append_eq_of_le (by decide)]
  rfl

theorem updi (rd rs1 : Reg) (byte : Byte) : Statement (.updi rd rs1 byte) := by
  simp only [Statement, encode, opcodeOf, opcodeColumn]
  repeat erw [BitVec.extractLsb'_append_eq_of_le (by decide)]
  rfl

theorem tbl (rd rs1 : Reg) : Statement (.tbl rd rs1) := by
  simp only [Statement, encode, opcodeOf, opcodeColumn]
  repeat erw [BitVec.extractLsb'_append_eq_of_le (by decide)]
  rfl

theorem mbase (md : MReg) (dir : Dir) : Statement (.mbase md dir) := by
  simp only [Statement, encode, opcodeOf, opcodeColumn]
  repeat erw [BitVec.extractLsb'_append_eq_of_le (by decide)]
  rfl

theorem msq (md ms : MReg) : Statement (.msq md ms) := by
  simp only [Statement, encode, opcodeOf, opcodeColumn]
  repeat erw [BitVec.extractLsb'_append_eq_of_le (by decide)]
  rfl

theorem mapply (rd : Reg) (ms : MReg) (rs2 : Reg) : Statement (.mapply rd ms rs2) := by
  simp only [Statement, encode, opcodeOf, opcodeColumn]
  repeat erw [BitVec.extractLsb'_append_eq_of_le (by decide)]
  rfl

theorem mpow (md : MReg) (rs1 : Reg) (dir : Dir) : Statement (.mpow md rs1 dir) := by
  simp only [Statement, encode, opcodeOf, opcodeColumn]
  repeat erw [BitVec.extractLsb'_append_eq_of_le (by decide)]
  rfl

theorem zpad (rd rs1 rs2 : Reg) (dir : Dir) : Statement (.zpad rd rs1 rs2 dir) := by
  simp only [Statement, encode, opcodeOf, opcodeColumn]
  repeat erw [BitVec.extractLsb'_append_eq_of_le (by decide)]
  rfl

theorem mrow (rd : Reg) (ms : MReg) (row : RowIx) : Statement (.mrow rd ms row) := by
  simp only [Statement, encode, opcodeOf, opcodeColumn]
  repeat erw [BitVec.extractLsb'_append_eq_of_le (by decide)]
  rfl

theorem mset (md : MReg) (rs1 : Reg) (row : RowIx) : Statement (.mset md rs1 row) := by
  simp only [Statement, encode, opcodeOf, opcodeColumn]
  repeat erw [BitVec.extractLsb'_append_eq_of_le (by decide)]
  rfl

theorem zcrc (rd rs1 : Reg) : Statement (.zcrc rd rs1) := by
  simp only [Statement, encode, opcodeOf, opcodeColumn]
  repeat erw [BitVec.extractLsb'_append_eq_of_le (by decide)]
  rfl

theorem comb (rd rs1 rs2 rs3 : Reg) : Statement (.comb rd rs1 rs2 rs3) := by
  simp only [Statement, encode, opcodeOf, opcodeColumn]
  repeat erw [BitVec.extractLsb'_append_eq_of_le (by decide)]
  rfl

theorem trim (rd rs1 rs2 rs3 : Reg) : Statement (.trim rd rs1 rs2 rs3) := by
  simp only [Statement, encode, opcodeOf, opcodeColumn]
  repeat erw [BitVec.extractLsb'_append_eq_of_le (by decide)]
  rfl

theorem advb (rs1 : Reg) : Statement (.advb rs1) := by
  simp only [Statement, encode, opcodeOf, opcodeColumn]
  repeat erw [BitVec.extractLsb'_append_eq_of_le (by decide)]
  rfl

theorem peel (rd rs1 rs2 : Reg) : Statement (.peel rd rs1 rs2) := by
  simp only [Statement, encode, opcodeOf, opcodeColumn]
  repeat erw [BitVec.extractLsb'_append_eq_of_le (by decide)]
  rfl

theorem peeli (rd rs1 : Reg) (byte : Byte) : Statement (.peeli rd rs1 byte) := by
  simp only [Statement, encode, opcodeOf, opcodeColumn]
  repeat erw [BitVec.extractLsb'_append_eq_of_le (by decide)]
  rfl

theorem advr (rd rs1 : Reg) : Statement (.advr rd rs1) := by
  simp only [Statement, encode, opcodeOf, opcodeColumn]
  repeat erw [BitVec.extractLsb'_append_eq_of_le (by decide)]
  rfl

end Opcode

end Sys2Proof.Laws
end

