-- ==== Sys2Proof/Laws/Step.lean ====
section
/-!
SUPPORT. One step by the event at the head of the schedule (R30, R82).
-/

namespace Sys2Proof.Machine

/-- What a step answers for an action. -/
theorem step_of_settle (s t : State) (h : nextAction s = .settle t) : step s = .next t := by
  simp [step, h]

theorem step_of_run (s : State) (i : Instr) (h : nextAction s = .run i) : step s = exec i s := by
  simp [step, h]

theorem step_of_stop (s : State) (f : Fault) (h : nextAction s = .stop f) : step s = .fault f := by
  simp [step, h]

theorem nextAction_nil (s : State) (h : s.schedule = []) : nextAction s = engineTurn s := by
  simp [nextAction, h]

theorem nextAction_engine (s : State) (rest : List Event) (h : s.schedule = .engine :: rest) :
    nextAction s = engineTurn s := by
  simp [nextAction, h]

theorem nextAction_read (s : State) (a : HostAddr) (rest : List Event)
    (h : s.schedule = .read a :: rest) : nextAction s = .settle (hostRead a s).retire := by
  simp [nextAction, h]

theorem nextAction_write (s : State) (a : HostAddr) (v : Word) (rest : List Event)
    (h : s.schedule = .write a v :: rest) : nextAction s = hostWrite a v s := by
  simp [nextAction, h]

theorem nextAction_reset (s : State) (rest : List Event) (h : s.schedule = .reset :: rest) :
    nextAction s = .settle s.powerOn.retire := by
  simp [nextAction, h]

theorem nextAction_turn (s : State) (h : s.EngineTurn) : nextAction s = engineTurn s := by
  rcases h with h | ⟨rest, h⟩
  · exact nextAction_nil s h
  · exact nextAction_engine s rest h

theorem portReg_eq_cmd : ∀ a : HostAddr, portReg a = .cmd → a = 0x10#8 := by decide

theorem portReg_eq_status : ∀ a : HostAddr, portReg a = .status → a = 0x11#8 := by decide

theorem portReg_eq_x : ∀ (a : HostAddr) (r : Reg), portReg a = .x r → a = 0#4 ++ r := by decide

/-! ### All that a step can do -/

/-- The kinds of step from `s` to `t`. -/
inductive StepKind (s t : State) : Prop where
  /-- a host read: only what the host sees -/
  | read (a : HostAddr) (rest : List Event) (u : State) (hs : s.schedule = .read a :: rest)
      (hu : (∃ v, u = s.answer v) ∨ ∃ v, u = s.answerIfIdle v) (ht : t = u.retire)
  /-- a write to a general register of an idle engine -/
  | writeX (r : Reg) (v : Word) (rest : List Event) (hs : s.schedule = .write (0#4 ++ r) v :: rest)
      (hb : s.busy = false) (ht : t = (s.writeX r v).retire)
  /-- a write to a general register discarded -/
  | overrunX (r : Reg) (v : Word) (rest : List Event) (hs : s.schedule = .write (0#4 ++ r) v :: rest)
      (hb : s.busy = true) (ht : t = (s.raise .overrun 0#32).retire)
  /-- a write to CMD discarded -/
  | overrunCmd (w : Word) (rest : List Event) (hs : s.schedule = .write 0x10#8 w :: rest)
      (hb : s.busy = true) (ht : t = (s.raise .overrun w).retire)
  /-- an illegal word -/
  | illegal (w : Word) (rest : List Event) (hs : s.schedule = .write 0x10#8 w :: rest) (hr : s.Ready)
      (hd : ∃ e, decode w = .error e) (ht : t = (s.raise .illegal w).retire)
  /-- a legal word whose own check fails -/
  | checkFails (w : Word) (rest : List Event) (i : Instr) (e : ErrCode)
      (hs : s.schedule = .write 0x10#8 w :: rest) (hr : s.Ready) (hd : decode w = .ok i)
      (hc : issueCheck i s = some e) (ht : t = (s.raise e (encode i)).retire)
  /-- a legal word accepted -/
  | accept (w : Word) (rest : List Event) (i : Instr) (hs : s.schedule = .write 0x10#8 w :: rest)
      (hr : s.Ready) (hd : decode w = .ok i) (hc : issueCheck i s = none)
      (ht : t = (s.accept (encode i)).retire)
  /-- a write to STATUS -/
  | clear (v : Word) (rest : List Event) (hs : s.schedule = .write 0x11#8 v :: rest)
      (ht : t = s.clearError.retire)
  /-- the completion of the command in flight -/
  | complete (i : Instr) (u : State) (he : s.EngineTurn) (hb : s.busy = true)
      (hd : decode s.pend = .ok i) (hx : exec i s = .next t) (hk : EffectKind i s u)
      (ht : t = u.finish.retire)
  /-- reset -/
  | reset (rest : List Event) (hs : s.schedule = .reset :: rest) (ht : t = s.powerOn.retire)
  /-- a write ignored or dropped, or the engine's turn with nothing in flight -/
  | idle (hi : s.EngineTurn → s.busy = false) (hn : ∀ rest, s.schedule ≠ .reset :: rest)
      (ht : t = s.retire)

theorem stepKind_turn (s t : State) (he : s.EngineTurn) (hn : ∀ rest, s.schedule ≠ .reset :: rest)
    (h : step s = .next t) : StepKind s t := by
  rcases engineTurn_cases s with ⟨hb, ha⟩ | ⟨hb, i, hd, ha⟩ | ⟨_, _, ha⟩
  · rw [step_of_settle s _ ((nextAction_turn s he).trans ha)] at h
    cases h
    exact .idle (fun _ => hb) hn rfl
  · rw [step_of_run s _ ((nextAction_turn s he).trans ha)] at h
    rcases exec_cases i s with ⟨hb', _⟩ | ⟨_, u, hk, hu⟩
    · simp [hb] at hb'
    · have ht := hu
      rw [h] at ht
      cases ht
      exact .complete i u he hb hd h hk rfl
  · rw [step_of_stop s _ ((nextAction_turn s he).trans ha)] at h
    cases h

/-- Inversion of a step: if it answers a next state, it was a step of one of these kinds. -/
theorem step_cases (s t : State) (h : step s = .next t) : StepKind s t := by
  cases hs : s.schedule with
  | nil => exact stepKind_turn s t (.inl hs) (by simp [hs]) h
  | cons ev rest =>
    cases ev with
    | engine => exact stepKind_turn s t (.inr ⟨rest, hs⟩) (by simp [hs]) h
    | reset =>
      rw [step_of_settle s _ (nextAction_reset s rest hs)] at h
      cases h
      exact .reset rest hs rfl
    | read a =>
      rw [step_of_settle s _ (nextAction_read s a rest hs)] at h
      cases h
      exact .read a rest _ hs (hostRead_cases a s) rfl
    | write a v =>
      have hna := nextAction_write s a v rest hs
      have hturn : ¬ s.EngineTurn := by
        rintro (h | ⟨r, h⟩) <;> simp [hs] at h
      have hreset : ∀ r, s.schedule ≠ .reset :: r := by simp [hs]
      rcases hostWrite_cases a v s with ⟨r, hp, hb, hw⟩ | ⟨r, hp, hb, hw⟩ | ⟨hp, hw⟩ | ⟨hp, hw⟩ | hw
      · rw [step_of_settle s _ (hna.trans hw)] at h
        cases h
        exact .overrunX r v rest (portReg_eq_x a r hp ▸ hs) hb rfl
      · rw [step_of_settle s _ (hna.trans hw)] at h
        cases h
        exact .writeX r v rest (portReg_eq_x a r hp ▸ hs) hb rfl
      · have ha : s.schedule = .write 0x10#8 v :: rest := portReg_eq_cmd a hp ▸ hs
        rcases issueWord_cases v s with ⟨hb, hi⟩ | ⟨hb, _, hi⟩ | ⟨hb, he, hd, hi⟩ | ⟨hb, he, i, hd, hi⟩
        · rw [step_of_settle s _ (hna.trans (hw.trans hi))] at h
          cases h
          exact .overrunCmd v rest ha hb rfl
        · rw [step_of_settle s _ (hna.trans (hw.trans hi))] at h
          cases h
          exact .idle (fun _ => hb) hreset rfl
        · rw [step_of_settle s _ (hna.trans (hw.trans hi))] at h
          cases h
          exact .illegal v rest ha ⟨hb, he⟩ hd rfl
        · rw [step_of_run s _ (hna.trans (hw.trans hi))] at h
          rcases exec_cases i s with ⟨_, hx⟩ | ⟨hb', _⟩
          · rw [hx] at h
            cases h
            rcases issue_cases i s with ⟨e, hc, hi'⟩ | ⟨hc, hi'⟩
            · exact .checkFails v rest i e ha ⟨hb, he⟩ hd hc (by rw [hi'])
            · exact .accept v rest i ha ⟨hb, he⟩ hd hc (by rw [hi'])
          · simp [hb] at hb'
      · rw [step_of_settle s _ (hna.trans hw)] at h
        cases h
        exact .clear v rest (portReg_eq_status a hp ▸ hs) rfl
      · rw [step_of_settle s _ (hna.trans hw)] at h
        cases h
        exact .idle (fun h => absurd h hturn) hreset rfl

end Sys2Proof.Machine
end

