-- ==== Sys2Proof/Tests/Slice0.lean ====
section
/-!
SUPPORT. The model's own tests. Expected values are those of spec/95_test_vectors.md and of the examples in
the command rules; the words of the decode tests are written out, bit by bit, from the encoding column of
rule R110. The last part shows that the hypotheses of each statement can be met.
-/

open Sys2Proof Sys2Proof.Machine Sys2Proof.Statements

namespace Sys2Proof.Tests

/-! ## Decoding: every command's word, bit by bit (R110) -/

theorem test_decode_glue :
    decode 0b0000_0000_0000_0000_0000_0000_0000_0000#32 = .ok .nop ∧
    decode 0b0000_0001_1010_0000_0001_0010_0011_0100#32 = .ok (.lil 10 0x1234) ∧
    decode 0b0000_0010_0001_0000_1101_1110_0101_0111#32 = .ok (.lih 1 0xDE57) ∧
    decode 0b0000_0011_0011_0001_0010_0000_0000_0000#32 = .ok (.xor 3 1 2) ∧
    decode 0b0000_0100_0010_0001_0000_0000_0000_0000#32 = .ok (.fin 2 1) ∧
    decode 0b0000_0101_0000_0001_0010_0000_0000_0000#32 = .ok (.chklen 1 2) := by decide

theorem test_decode_update :
    decode 0b0001_0000_0011_0001_0010_0000_0000_0000#32 = .ok (.upd 3 1 2) ∧
    decode 0b0001_0001_0100_0001_0000_0000_0011_0001#32 = .ok (.updi 4 1 0x31) ∧
    decode 0b0001_0010_0010_0001_0000_0000_0000_0000#32 = .ok (.tbl 2 1) := by decide

theorem test_decode_operator :
    decode 0b0010_0000_0011_0000_0000_0000_0000_0001#32 = .ok (.mbase 3 .inv) ∧
    decode 0b0010_0001_0001_0010_0000_0000_0000_0000#32 = .ok (.msq 1 2) ∧
    decode 0b0010_0010_0010_0001_0111_0000_0000_0000#32 = .ok (.mapply 2 1 7) ∧
    decode 0b0010_0011_0010_0110_0000_0000_0000_0000#32 = .ok (.mpow 2 6 .fwd) ∧
    decode 0b0010_0100_0011_0001_0010_0000_0000_0001#32 = .ok (.zpad 3 1 2 .inv) ∧
    decode 0b0010_0101_0101_0001_0000_0000_0001_1110#32 = .ok (.mrow 5 1 30) ∧
    decode 0b0010_0110_0010_0001_0000_0000_0001_1111#32 = .ok (.mset 2 1 31) := by decide

theorem test_decode_oracle_and_combine :
    decode 0b0011_0000_0101_0001_0000_0000_0000_0000#32 = .ok (.zcrc 5 1) ∧
    decode 0b0011_0001_0100_0001_0010_0011_0000_0000#32 = .ok (.comb 4 1 2 3) ∧
    decode 0b0011_0010_0101_0100_0010_0110_0000_0000#32 = .ok (.trim 5 4 2 6) := by decide

theorem test_decode_advance :
    decode 0b0100_0000_0000_1001_0000_0000_0000_0000#32 = .ok (.advb 9) ∧
    decode 0b0100_0001_0111_0110_0010_0000_0000_0000#32 = .ok (.peel 7 6 2) ∧
    decode 0b0100_0010_0100_0011_0000_0000_0100_1000#32 = .ok (.peeli 4 3 0x48) ∧
    decode 0b0100_0011_0011_0010_0000_0000_0000_0000#32 = .ok (.advr 3 2) := by decide

/-- The illegal words of spec/95_test_vectors.md §2.7. -/
theorem test_decode_illegal :
    ([0x00000001, 0x21500000, 0x2000000F, 0x01110000, 0x3201234F] : List Word).all
      (fun w => decode w = .error .mustBeZero) ∧
    ([0x06000000, 0x13000000, 0x27000000, 0x33000000, 0x44000000, 0xFF000000] : List Word).all
      (fun w => decode w = .error .unassignedOpcode) := by decide

/-- The words of programs P3 and P4 come out of the encoder. -/
theorem test_encode_program_words :
    encode (.lih 3 0xEBE6) = 0x0230EBE6 ∧ encode (.peeli 4 4 0x48) = 0x42440048 ∧
    encode (.trim 7 4 5 6) = 0x32745600 ∧ encode (.mpow 2 6 .inv) = 0x23260001 ∧
    encode (.mapply 7 2 2) = 0x22722000 ∧ encode (.advb 2) = 0x40020000 := by decide

theorem test_table_word_of_zero_operands :
    decodeTableWord 32 0x43000000 = some (.advr 0 0) ∧ decodeTableWord 32 0x00000001 = none := by decide

/-! ## Well-formed source lines: an ill-formed one for each check (R120, R121) -/

theorem test_lines_well_formed :
    (AsmLine.mk .mset [.m 3, .x 15, .num 31]).wellFormed ∧
    (AsmLine.mk .li [.x 0, .num 0xFFFFFFFF]).wellFormed ∧
    (AsmLine.mk .hashb [.x 1, .x 2]).wellFormed := by decide

theorem test_lines_ill_formed :
    ([⟨.tbl, [.x 16, .x 1]⟩, ⟨.msq, [.m 4, .m 0]⟩, ⟨.updi, [.x 1, .x 1, .num 256]⟩,
      ⟨.mrow, [.x 1, .m 1, .num 32]⟩, ⟨.lil, [.x 1, .num 65536]⟩, ⟨.li, [.x 1, .num 4294967296]⟩,
      ⟨.mbase, [.m 0, .num 1]⟩, ⟨.fin, [.x 1, .m 1]⟩, ⟨.nop, [.x 1]⟩, ⟨.advb, []⟩,
      ⟨.hashb, [.x 1, .x 1]⟩] : List AsmLine).all (fun l => !l.wellFormed) := by decide

theorem test_assemble_text :
    assembleText ['l', 'i', 'l', ' ', 'x', '1', ',', ' ', '0', 'x', 'F', 'F', ';', '!'] =
      some [.lil 1 0xFF] ∧
    assembleText ['P', 'E', 'E', 'L', 'I', ' ', 'x', '4', ',', 'x', '4', ',', '\'', ',', '\''] =
      some [.peeli 4 4 0x2C] ∧
    assembleText ['M', 'I', 'D', 'E', 'N', 'T', ' ', 'm', '2'] = some [.xor 15 15 15, .mpow 2 15 .fwd] ∧
    assembleText ['F', 'I', 'N', ' ', 'x', '1', ' ', 'x', '2'] = none := by decide

/-! ## One step on a small state -/

/-- The reset state with some registers set. -/
def withRegs (l : List (Reg × Word)) : State := l.foldl (fun s p => s.writeX p.1 p.2) State.reset

/-- The command in flight in `s`. -/
def inFlight (i : Instr) (s : State) : State := { s with busy := true, pend := encode i }

/-- `x[r]` after the machine's step from `s`. -/
def xAfter (r : Reg) (s : State) : Option Word :=
  match step s with
  | .next t => some (t.readX r)
  | _ => none

/-- `m[j].row[k]` after the machine's step from `s`. -/
def rowAfter (j : MReg) (k : RowIx) (s : State) : Option Word :=
  match step s with
  | .next t => some (getRow (t.readM j) k)
  | _ => none

/-- STATUS and ERRCMD after the machine's step from `s`. -/
def statusAfter (s : State) : Option (Word × Word) :=
  match step s with
  | .next t => some (t.status, t.errcmd)
  | _ => none

/-- What the host's read gives at the machine's step from `s`. -/
def readAfter (s : State) : Option Word :=
  match step s with
  | .next t => some t.rdata
  | _ => none

theorem test_nop_clears_busy : statusAfter (inFlight .nop State.reset) = some (0, 0) := by decide
theorem test_lil_clears_upper : xAfter 1 (inFlight (.lil 1 0xFFFF) (withRegs [(1, 0xDEADBEEF)])) =
    some 0x0000FFFF := by decide
theorem test_lih_keeps_lower : xAfter 1 (inFlight (.lih 1 0xDE57) (withRegs [(1, 0x00006F05)])) =
    some 0xDE576F05 := by decide
theorem test_xor : xAfter 3 (inFlight (.xor 3 1 2) (withRegs [(1, 0x12345678), (2, 0x9ABCDEF0)])) =
    some 0x88888888 := by decide
theorem test_fin : xAfter 2 (inFlight (.fin 2 1) (withRegs [(1, 0x340BC6D9)])) =
    some 0xCBF43926 := by decide
theorem test_upd_ignores_upper_bits :
    xAfter 3 (inFlight (.upd 3 1 2) (withRegs [(1, 0x12345678), (2, 0xABCDEF31)])) =
      some 0x0F12CD62 := by decide +kernel
theorem test_updi_in_place : xAfter 1 (inFlight (.updi 1 1 0x31) (withRegs [(1, 0xFFFFFFFF)])) =
    some 0x7C231048 := by decide +kernel
theorem test_tbl_ignores_upper_bits : xAfter 2 (inFlight (.tbl 2 1) (withRegs [(1, 0xFFFFFF80)])) =
    some 0xEDB88320 := by decide +kernel
theorem test_hash_check_value :
    crcHash [0x31, 0x32, 0x33, 0x34, 0x35, 0x36, 0x37, 0x38, 0x39] = 0xCBF43926 := by decide +kernel
theorem test_mbase_inv_first_and_last_row :
    rowAfter 3 0 (inFlight (.mbase 3 .inv) State.reset) = some 0xDB710641 ∧
    rowAfter 3 31 (inFlight (.mbase 3 .inv) State.reset) = some 0x00000002 := by decide +kernel
theorem test_msq_of_base_fwd :
    rowAfter 1 0 (inFlight (.msq 1 0) (State.reset.writeM 0 (gfBase .fwd))) = some 0x20000000 ∧
    rowAfter 1 31 (inFlight (.msq 1 0) (State.reset.writeM 0 (gfBase .fwd))) = some 0x76DC4190 := by
  decide +kernel
theorem test_mapply_of_base_fwd :
    xAfter 2 (inFlight (.mapply 2 1 3) ((withRegs [(3, 0xFFFFFFFF)]).writeM 1 (gfBase .fwd))) =
      some 0x92477CDF := by decide +kernel
theorem test_mpow_inv_8 :
    rowAfter 2 0 (inFlight (.mpow 2 6 .inv) (withRegs [(6, 8)])) = some 0x6567CB95 ∧
    rowAfter 2 31 (inFlight (.mpow 2 6 .inv) (withRegs [(6, 8)])) = some 0x00000100 := by decide +kernel
theorem test_zpad_fwd_8 :
    xAfter 3 (inFlight (.zpad 3 1 2 .fwd) (withRegs [(1, 0x12345678), (2, 8)])) =
      some 0x5ECCCD58 := by decide +kernel
theorem test_zpad_inv_8 :
    xAfter 3 (inFlight (.zpad 3 1 2 .inv) (withRegs [(1, 0x12345678), (2, 8)])) =
      some 0x83BF2859 := by decide +kernel
theorem test_mrow : xAfter 8 (inFlight (.mrow 8 3 0) (State.reset.writeM 3 (gfBase .inv))) =
    some 0xDB710641 := by decide +kernel
theorem test_mset_only_its_row :
    rowAfter 2 31 (inFlight (.mset 2 1 31) (State.reset.writeM 2 (gfBase .fwd))) = some 0 ∧
    rowAfter 2 0 (inFlight (.mset 2 1 31) (State.reset.writeM 2 (gfBase .fwd))) = some 0x40000000 := by
  decide +kernel
theorem test_zcrc_3 : xAfter 5 (inFlight (.zcrc 5 1) (withRegs [(1, 3)])) = some 0xFF41D912 := by
  decide +kernel
theorem test_zcrc_over_maxlen_raises :
    statusAfter { withRegs [(1, 0x20000000)] with schedule := [.write 0x10 0x30510000] } =
      some (0x30, 0x30510000) := by decide
theorem test_comb_hello_world :
    xAfter 4 (inFlight (.comb 4 1 2 3) (withRegs [(1, 0xDE576F05), (2, 0x718498E8), (3, 6)])) =
      some 0xEBE6C6E6 := by decide +kernel
theorem test_comb_zero_length_returns_first :
    xAfter 4 (inFlight (.comb 4 1 2 3) (withRegs [(1, 0x12345678), (2, 0x9ABCDEF0)])) =
      some 0x12345678 := by decide +kernel
theorem test_trim_wrong_units :
    xAfter 5 (inFlight (.trim 5 4 2 6) (withRegs [(4, 0xEBE6C6E6), (2, 0x718498E8), (6, 6)])) =
      some 0x41A72FB0 := by decide +kernel
theorem test_trim_zero_length_returns_first :
    xAfter 5 (inFlight (.trim 5 4 2 6) (withRegs [(4, 0x12345678), (2, 0xFFFFFFFF)])) =
      some 0x12345678 := by decide +kernel
theorem test_advb_entries :
    advEntry 0 0xFF = 0xFF000000 ∧ advEntry 1 0x48 = 0xAB7B387F := by decide +kernel
theorem test_advb_sets_valid :
    statusAfter (inFlight (.advb 1) (withRegs [(1, 13)])) = some (0x02, 0) := by decide +kernel

/-- A state whose table holds the entry of `'H'` for S = 13 (spec/95_test_vectors.md §1.1). -/
def builtFor13 : State :=
  { withRegs [(6, 0x14193919), (2, 0x00000148)] with
    adv := State.reset.adv.set 0x48 0xAC2FD682#32
    advs := 13#32
    advValid := true }

theorem test_peel : xAfter 7 (inFlight (.peel 7 6 2) builtFor13) = some 0xC850677B := by decide +kernel
theorem test_peeli_in_place : xAfter 6 (inFlight (.peeli 6 6 0x48) builtFor13) = some 0xC850677B := by
  decide +kernel
theorem test_peeli_before_advb_raises :
    statusAfter { State.reset with schedule := [.write 0x10 0x42110041] } =
      some (0x40, 0x42110041) := by decide
theorem test_advr_ignores_upper_bits : xAfter 3 (inFlight (.advr 3 2) builtFor13) =
    some 0xAC2FD682 := by decide +kernel
theorem test_chklen_equal_lengths_raise :
    statusAfter { withRegs [(1, 13), (2, 13)] with schedule := [.write 0x10 0x05012000] } =
      some (0x20, 0x05012000) := by decide
theorem test_chklen_invalid_input_first :
    statusAfter { withRegs [(1, 0x30000000), (2, 0x20000000)] with
      schedule := [.write 0x10 0x05012000] } = some (0x20, 0x05012000) := by decide

/-! ## The port (spec/95_test_vectors.md §2.7, program P7) -/

theorem test_port_constants :
    readAfter { State.reset with schedule := [.read 0x14] } = some 0xEDB88320 ∧
    readAfter { State.reset with schedule := [.read 0x15] } = some 0x1FFFFFFF ∧
    readAfter { State.reset with schedule := [.read 0x16] } = some 0 ∧
    readAfter { withRegs [(15, 7)] with schedule := [.read 0x0F] } = some 7 := by decide
theorem test_overrun_on_cmd_and_on_register :
    statusAfter { inFlight (.advb 1) State.reset with schedule := [.write 0x10 0xFF000000] } =
      some (0x51, 0xFF000000) ∧
    statusAfter { inFlight (.advb 1) State.reset with schedule := [.write 0x02 9] } = some (0x51, 0) := by
  decide
theorem test_status_write_clears :
    statusAfter { builtFor13 with err := .lengthDomain, errcmd := 5, schedule := [.write 0x11 0xFF] } =
      some (0x02, 0) := by decide
theorem test_dropped_while_error :
    statusAfter { State.reset with err := .overrun, errcmd := 5, schedule := [.write 0x10 0xFF] } =
      some (0x50, 5) := by decide

/-! ## The hypotheses of the statements can be met -/

/-- An idle engine whose host writes `w` to CMD. -/
def atCmd (s : State) (w : Word) : State := { s with schedule := [.write 0x10#8 w] }

/-- NOP in flight from reset. -/
def nopInFlight : State := inFlight .nop State.reset

theorem nopInFlight_inv : nopInFlight.Inv where
  errcmd_clear := fun _ => rfl
  flight_checked := fun _ => ⟨.nop, by decide, rfl⟩
  advs_clear := fun _ => rfl
  table_built := fun h => Bool.noConfusion h

theorem witness_EncodeOfDecodeIsTheWord : ∃ w i, decode w = .ok i ∧ i = .msq 3 3 :=
  ⟨0x21330000#32, _, by decide, rfl⟩

theorem witness_IllegalWordsRaiseIllegal :
    (atCmd State.reset 0x00000001).Ready ∧
    (atCmd State.reset 0x00000001).schedule = .write 0x10#8 0x00000001#32 :: [] ∧
    decode 0x00000001#32 = .error .mustBeZero ∧ decode 0xFFFFFFFF#32 = .error .unassignedOpcode := by
  decide

theorem witness_StepRunsTheDecodedCommand :
    ((atCmd State.reset 0).Ready ∧ (atCmd State.reset 0).schedule = [.write 0x10#8 0#32] ∧
      decode 0#32 = .ok .nop) ∧
    (nopInFlight.EngineTurn ∧ nopInFlight.busy = true ∧ decode nopInFlight.pend = .ok .nop) ∧
    State.EngineTurn { nopInFlight with schedule := [.engine] } :=
  ⟨by decide, ⟨.inl rfl, rfl, by decide⟩, .inr ⟨[], rfl⟩⟩

/-- The six clauses, each at a state of its own. -/
theorem witness_CmdWriteFollowsIssueOrder :
    ((atCmd nopInFlight 0).busy = true ∧ (atCmd nopInFlight 0).err = .noError) ∧
    (let s := { atCmd nopInFlight 0 with err := .overrun }; s.busy = true ∧ s.err ≠ .noError) ∧
    (let s := { atCmd State.reset 0 with err := .overrun }; s.busy = false ∧ s.err ≠ .noError) ∧
    ((atCmd State.reset 1).Ready ∧ decode 1#32 = .error .mustBeZero) ∧
    (decode 0x43000000#32 = .ok (.advr 0 0) ∧
      issueCheck (.advr 0 0) (atCmd State.reset 0x43000000) = some .advNotBuilt) ∧
    (decode 0#32 = .ok .nop ∧ issueCheck .nop (atCmd State.reset 0) = none) := by decide

theorem witness_CompletionClearsBusyAndRaisesNothing :
    nopInFlight.EngineTurn ∧ nopInFlight.busy = true ∧ decode nopInFlight.pend = .ok .nop :=
  ⟨.inl rfl, rfl, by decide⟩

theorem witness_CommandRunsInTwoSteps :
    let s : State := { State.reset with schedule := [.write 0x10#8 0x0110FFFF#32, .engine] }
    s.Ready ∧ decode 0x0110FFFF#32 = .ok (.lil 1 0xFFFF) ∧ issueCheck (.lil 1 0xFFFF) s = none := by
  decide

theorem witness_FlightEndsWithinTheSchedule :
    State.Inv { nopInFlight with schedule := [.read 0x11#8, .write 0x10#8 0#32] } ∧
      nopInFlight.busy = true :=
  ⟨⟨nopInFlight_inv.1, nopInFlight_inv.2, nopInFlight_inv.3, fun h => Bool.noConfusion h⟩, rfl⟩

theorem witness_IdleRegisterAccess :
    let s : State := { State.reset with err := .illegal, schedule := [.read (0#4 ++ 15#4)] }
    let t : State := { State.reset with schedule := [.write (0#4 ++ 0#4) 5#32] }
    s.busy = false ∧ t.busy = false := by decide

theorem witness_StatusReadAndErrorClear :
    ∃ s t : State, s.schedule = [.read 0x11#8] ∧ s.busy = true ∧ t.schedule = [.write 0x11#8 7#32] :=
  ⟨{ nopInFlight with schedule := [.read 0x11#8] }, { nopInFlight with schedule := [.write 0x11#8 7#32] },
    rfl, rfl, rfl⟩

theorem witness_ReadOnlyAndReservedAddresses :
    0x12#8 ≤ 0x12#8 ∧ 0x12#8 ≤ 0xFF#8 ∧ 0x16#8 ≤ 0x16#8 ∧ 0x16#8 ≤ 0xFF#8 ∧
    (∃ s : State, s.schedule = [.write 0x12#8 1#32]) ∧ (∃ s : State, s.schedule = [.write 0xFF#8 1#32]) ∧
    ∀ a ∈ [0x10#8, 0x12#8, 0x13#8, 0x14#8, 0x15#8, 0x16#8, 0xFF#8],
      ∃ s : State, s.schedule = [.read a] ∧ s.busy = false :=
  ⟨by decide, by decide, by decide, by decide,
    ⟨{ State.reset with schedule := [.write 0x12#8 1#32] }, rfl⟩,
    ⟨{ State.reset with schedule := [.write 0xFF#8 1#32] }, rfl⟩,
    fun a _ => ⟨{ State.reset with schedule := [.read a] }, rfl, rfl⟩⟩

theorem witness_OverrunDiscardsTheWrite :
    ∃ s t u v : State, s.busy = true ∧ s.err = .noError ∧ s.schedule = [.write 0x10#8 1#32] ∧
      t.busy = true ∧ t.err = .noError ∧ t.schedule = [.write (0#4 ++ 15#4) 1#32] ∧
      u.busy = true ∧ u.err ≠ .noError ∧ u.schedule = [.write 0x10#8 1#32] ∧
      v.busy = true ∧ v.err ≠ .noError ∧ v.schedule = [.write (0#4 ++ 0#4) 1#32] :=
  ⟨{ nopInFlight with schedule := [.write 0x10#8 1#32] },
    { nopInFlight with schedule := [.write (0#4 ++ 15#4) 1#32] },
    { nopInFlight with err := .overrun, schedule := [.write 0x10#8 1#32] },
    { nopInFlight with err := .overrun, schedule := [.write (0#4 ++ 0#4) 1#32] },
    rfl, rfl, rfl, rfl, rfl, rfl, rfl, ErrCode.noConfusion, rfl, rfl, ErrCode.noConfusion, rfl⟩

theorem witness_BusyReadReturnsAFreeValue :
    ∀ a ∈ [0x00#8, 0x0F#8, 0x12#8, 0x13#8], (a < 0x10#8 ∨ a = 0x12#8 ∨ a = 0x13#8) ∧
      (State.busy { nopInFlight with schedule := [.read a] }) = true := by decide

/-- The three cases: an error kept, an error cleared, a reset. -/
theorem witness_FirstErrorIsSticky :
    ∃ s t u : State, s.err ≠ .noError ∧ GoesOn (step s) ∧
      t.err ≠ .noError ∧ t.schedule = [.write 0x11#8 0#32] ∧ GoesOn (step t) ∧
      u.err ≠ .noError ∧ u.schedule = [.reset] ∧ GoesOn (step u) :=
  ⟨{ State.reset with err := .illegal, schedule := [.write 0x10#8 0#32] },
    { State.reset with err := .illegal, schedule := [.write 0x11#8 0#32] },
    { State.reset with err := .illegal, schedule := [.reset] },
    ErrCode.noConfusion, ⟨_, rfl⟩, ErrCode.noConfusion, rfl, ⟨_, rfl⟩, ErrCode.noConfusion, rfl, ⟨_, rfl⟩⟩

/-- An error at issue with BUSY = 0, and OVERRUN with BUSY = 1. -/
theorem witness_RaisingChangesOnlyErrAndErrcmd :
    statusAfter (atCmd State.reset 1) = some (0x10, 1) ∧
    statusAfter (atCmd nopInFlight 1) = some (0x51, 1) := by decide

theorem witness_ResetLeavesTheTabledValues :
    ∃ s : State, s.busy = true ∧ s.schedule = .reset :: [] :=
  ⟨{ nopInFlight with schedule := [.reset] }, rfl, rfl⟩

theorem witness_EveryStepKeepsTheInvariant : nopInFlight.Inv ∧ GoesOn (step nopInFlight) :=
  ⟨nopInFlight_inv, ⟨_, rfl⟩⟩

theorem witness_InvariantStatesGoOn : nopInFlight.Inv := nopInFlight_inv

/-- A matrix written, a table built, a valid table kept; none by a reset. -/
theorem witness_MatricesAndTableHaveTheirOwnWriters :
    rowAfter 0 0 (inFlight (.mbase 0 .fwd) State.reset) = some 0x40000000 ∧
    getRow (State.reset.readM 0) 0 = 0 ∧ State.reset.status = 0 ∧
    statusAfter (inFlight (.advb 1) State.reset) = some (0x02, 0) ∧ builtFor13.advValid = true ∧
    statusAfter builtFor13 = some (0x02, 0) := by decide +kernel

theorem witness_HostCannotTouchACommandInFlight :
    (atCmd nopInFlight 0).busy = true ∧ ¬ (atCmd nopInFlight 0).EngineTurn ∧
    (∀ rest, (atCmd nopInFlight 0).schedule ≠ .reset :: rest) ∧ GoesOn (step (atCmd nopInFlight 0)) := by
  refine ⟨rfl, ?_, fun rest h => ?_, ⟨_, rfl⟩⟩
  · rintro (h | ⟨rest, h⟩) <;> simp [atCmd] at h
  · simp [atCmd] at h

theorem witness_ReadValuesNeverReachTheEngine :
    SameEngine { State.reset with rdata := 7#32, draws := 3 } State.reset ∧ GoesOn (step State.reset) :=
  ⟨rfl, ⟨_, rfl⟩⟩

theorem witness_CompletionCommutesWithReads : nopInFlight.Inv ∧ nopInFlight.busy = true :=
  ⟨nopInFlight_inv, rfl⟩

/-- The states every plain command's rule speaks of: a ready engine and one with the command in flight. -/
theorem witness_plain_commands : State.reset.Ready ∧ nopInFlight.busy = true := by decide

/-- CHKLEN's clauses at their boundaries: p = S, p = S − 1 with S above and at MAXLEN, and the same in
flight. -/
theorem witness_ChklenRule :
    (let s := withRegs [(1, 13), (2, 13)]; s.Ready ∧ s.readX 2 ≤ s.readX 1) ∧
    (let s := withRegs [(1, 0x1FFFFFFF), (2, 0x20000000)];
      s.Ready ∧ s.readX 1 < s.readX 2 ∧ 0x1FFFFFFF#32 < s.readX 2) ∧
    (let s := withRegs [(1, 0x1FFFFFFE), (2, 0x1FFFFFFF)];
      s.Ready ∧ s.readX 1 < s.readX 2 ∧ s.readX 2 ≤ 0x1FFFFFFF#32) ∧
    (let s := inFlight (.chklen 1 2) (withRegs [(1, 0), (2, 1)]);
      s.busy = true ∧ s.readX 1 < s.readX 2 ∧ s.readX 2 ≤ 0x1FFFFFFF#32) := by decide

/-- The byte-length checks of ZCRC, COMB and ADVB at their boundary: MAXLEN passes, MAXLEN + 1 fails. -/
theorem witness_length_checked_commands :
    (let s := withRegs [(1, 0x1FFFFFFF)]; s.Ready ∧ s.readX 1 ≤ 0x1FFFFFFF#32) ∧
    (let s := withRegs [(1, 0x20000000)]; s.Ready ∧ ¬ s.readX 1 ≤ 0x1FFFFFFF#32) ∧
    (let s := inFlight (.zcrc 5 1) (withRegs [(1, 0x1FFFFFFF)]);
      s.busy = true ∧ s.readX 1 ≤ 0x1FFFFFFF#32) := by decide

/-- The domain of Combine at its ends: 0, where the first operand is the answer, and MAXLEN. -/
theorem witness_CombRule : 0#32 ≤ 0x1FFFFFFF#32 ∧ 0x1FFFFFFF#32 ≤ 0x1FFFFFFF#32 := by decide

/-- PEEL, PEELI and ADVR with the table built and not built. -/
theorem witness_table_checked_commands :
    (builtFor13.Ready ∧ builtFor13.advValid = true) ∧
    (State.reset.Ready ∧ ¬ State.reset.advValid = true) ∧
    ((inFlight (.advr 3 2) builtFor13).busy = true ∧
      (inFlight (.advr 3 2) builtFor13).advValid = true) := by decide

/-- The events of a list of commands, each written to CMD and then completed. -/
def writtenInTurn (is : List Instr) : List Event :=
  is.flatMap (fun i => [.write 0x10#8 (encode i), .engine])

/-- A one-line and a four-line expansion, written to a ready engine; and operands of HASHB that differ. -/
theorem witness_PseudoInstructionsHaveTheirEffect :
    (∃ s : State, s.Ready ∧ s.schedule = writtenInTurn [.xor 0 0 0]) ∧
    (∃ s : State, s.Ready ∧
      s.schedule = writtenInTurn [.lil 1 0xFFFF, .lih 1 0xFFFF, .upd 1 1 2, .fin 1 1]) ∧ 1#4 ≠ 2#4 :=
  ⟨⟨{ State.reset with schedule := writtenInTurn [.xor 0 0 0] }, by decide, rfl⟩,
    ⟨{ State.reset with
        schedule := writtenInTurn [.lil 1 0xFFFF, .lih 1 0xFFFF, .upd 1 1 2, .fin 1 1] },
      by decide, rfl⟩, by decide⟩

/-- A nonzero word with NOP's opcode, a LIL word with `[19:16] ≠ 0`, an MROW word with `[7:5] ≠ 0`; and a
NOP written while ERR ≠ 0. -/
theorem witness_illegal_words_of_a_row :
    ((1#32).extractLsb' 24 8 = 0x00#8 ∧ 1#32 ≠ 0x00000000#32) ∧
    ((0x01010000#32).extractLsb' 24 8 = 0x01#8 ∧ (0x01010000#32).extractLsb' 16 4 ≠ 0#4) ∧
    ((0x25000020#32).extractLsb' 24 8 = 0x25#8 ∧ (0x25000020#32).extractLsb' 5 3 ≠ 0#3) ∧
    (let s := { atCmd State.reset 0 with err := .illegal };
      s.busy = false ∧ s.err ≠ .noError ∧ s.schedule = [.write 0x10#8 0x00000000#32]) := by decide

theorem witness_OperatorEngineLaws :
    (0xFFFFFFFE#32).toNat + (1#32).toNat ≤ 2 ^ 32 - 1 := by decide

theorem witness_OracleIsTheCrcOfZeroBytes :
    0x1FFFFFFF#32 ≤ 0x1FFFFFFF#32 ∧ 0#32 ≤ 0x1FFFFFFF#32 ∧
    (0x1FFFFFFE#32).toNat + (1#32).toNat ≤ 0x1FFFFFFF := by decide

theorem witness_CombineIsConcatenation : ([] : List Byte).length ≤ 0x1FFFFFFF ∧
    ([0x48#8, 0x65#8] : List Byte).length ≤ 0x1FFFFFFF := by decide

theorem witness_TrimAndCombineAreInverse :
    0#32 ≤ 0x1FFFFFFF#32 ∧ 0x1FFFFFFF#32 ≤ 0x1FFFFFFF#32 := by decide

/-- A state that holds the table for S. -/
theorem holdsTable_buildAdv (S : Word) : (State.reset.buildAdv S).HoldsTable S := by
  intro b
  unfold State.readAdv
  simp [State.buildAdv, advTable]

theorem witness_AdvanceTableMatchesOperatorPath :
    (State.reset.buildAdv 0x1FFFFFFF#32).HoldsTable 0x1FFFFFFF#32 ∧ 0x1FFFFFFF#32 ≤ 0x1FFFFFFF#32 :=
  ⟨holdsTable_buildAdv _, by decide⟩

theorem witness_PeelMovesTheStreamOn :
    (State.reset.buildAdv 2#32).HoldsTable 2#32 ∧ 2#32 ≤ 0x1FFFFFFF#32 ∧
    ([0x41#8, 0x42#8] : List Byte).length = (2#32).toNat ∧
    ([0x41#8, 0x42#8] ++ [] : List Byte).length = (2#32).toNat :=
  ⟨holdsTable_buildAdv _, by decide, by decide, by decide⟩

theorem witness_SuffixCrcFromWholeAndPrefix :
    (State.reset.buildAdv 2#32).HoldsTable 2#32 ∧ 2#32 ≤ 0x1FFFFFFF#32 ∧
    ([0x41#8] ++ [0x42#8] : List Byte).length = (2#32).toNat ∧
    ([0x41#8] : List Byte).length < (2#32).toNat :=
  ⟨holdsTable_buildAdv _, by decide, by decide, by decide⟩

end Sys2Proof.Tests
end

section
/-!
PROOF. A legal word is the encoding of the command it decodes to (R110): the encoder writes back, field
by field, what the row's mask fixes and what the row's reader takes out of the word.
-/

namespace Sys2Proof

/-- Two neighbouring fields of a word, put together. -/
theorem append_eq_field {w : Word} {st m n : Nat} {a : BitVec m} {b : BitVec n}
    (ha : a = w.extractLsb' (st + n) m) (hb : b = w.extractLsb' st n) :
    a ++ b = w.extractLsb' st (m + n) := by
  rw [ha, hb, BitVec.extractLsb'_append_extractLsb'_eq_extractLsb' rfl]

/-- A field that the row's mask covers holds the row's pattern in every word that spells the row. -/
theorem OpcodeRow.fixed_field {r : OpcodeRow} {w : Word} {st n : Nat} {c : BitVec n}
    (h : r.spells w) (hmask : r.mask.extractLsb' st n = BitVec.allOnes n)
    (hpattern : r.pattern.extractLsb' st n = c) : c = w.extractLsb' st n := by
  have hw : w &&& r.mask = r.pattern := by simpa [OpcodeRow.spells] using h
  rw [← hpattern, ← hw, BitVec.extractLsb'_and, hmask, BitVec.and_allOnes]

/-- The `dir` bit is bit 0 of the word it was read from (R104). -/
theorem bit_dirOf (w : Word) : (dirOf w).bit = w.extractLsb' 0 1 := by
  ext k hk
  obtain rfl : k = 0 := by omega
  unfold dirOf
  cases h : w.getLsbD 0 <;> simp_all [Dir.bit]

/-- Encoding the command a row reads from a word that spells it gives the word back (R110). For each row
the encoding is cut into its fields: an operand is the field it was read from, and every other field is
fixed by the mask. -/
theorem OpcodeRow.encode_read {r : OpcodeRow} (hr : r ∈ opcodeMap) {w : Word} (h : r.spells w) :
    encode (r.read w) = w := by
  have whole : w.extractLsb' 0 32 = w := BitVec.extractLsb'_eq_self
  refine Eq.trans ?_ whole
  fin_cases hr
  all_goals repeat' apply append_eq_field
  any_goals exact bit_dirOf w
  any_goals rfl
  all_goals exact fixed_field h rfl rfl

/-- A legal word spells the row whose reader gave its command. -/
theorem exists_row_of_decode {w : Word} {i : Instr} (h : decode w = .ok i) :
    ∃ r ∈ opcodeMap, r.spells w ∧ i = r.read w := by
  unfold decode at h
  split at h
  next r hr =>
    cases h
    exact ⟨r, List.mem_of_find?_eq_some hr, by simpa using List.find?_some hr, rfl⟩
  next => cases h

/-- The command a word decodes to is encoded as that word, so PEND and ERRCMD record the word written
(assumption 6). -/
theorem encode_of_decode {w : Word} {i : Instr} (h : decode w = .ok i) : encode i = w := by
  obtain ⟨r, hr, hspells, rfl⟩ := exists_row_of_decode h
  exact OpcodeRow.encode_read hr hspells

end Sys2Proof
end

section
/-!
PROOF. The reasoning rules of the host port: what one host access answers, by its address (R71–R77), and
what a write to CMD does, by the state it meets (R80).
-/

namespace Sys2Proof.Machine

/-! ### One access -/

theorem State.retire_of_schedule (s : State) {ev : Event} {rest : List Event}
    (h : s.schedule = ev :: rest) : s.retire = { s with schedule := rest } := by
  simp [State.retire, h]

theorem step_read {s : State} {a : HostAddr} {rest : List Event} (h : s.schedule = .read a :: rest) :
    step s = .next (hostRead a s).retire :=
  step_of_settle s _ (nextAction_read s a rest h)

theorem step_write_of_settle {s t : State} {a : HostAddr} {v : Word} {rest : List Event}
    (h : s.schedule = .write a v :: rest) (hw : hostWrite a v s = .settle t) : step s = .next t :=
  step_of_settle s t ((nextAction_write s a v rest h).trans hw)

/-- A read whose answer is known changes what the host sees and retires the read, and nothing else. -/
theorem step_read_of_answer {s : State} {a : HostAddr} {v : Word} {rest : List Event}
    (h : s.schedule = .read a :: rest) (ha : hostRead a s = s.answer v) :
    step s = .next { s with rdata := v, schedule := rest } := by
  rw [step_read h, ha, State.retire_of_schedule (s.answer v) h]
  rfl

/-! ### What an address answers (R71–R76) -/

theorem State.answerIfIdle_of_idle {s : State} (v : Word) (h : s.busy = false) :
    s.answerIfIdle v = s.answer v := by
  simp [State.answerIfIdle, h]

theorem hostRead_x (r : Reg) (s : State) :
    hostRead (0#4 ++ r) s = s.answerIfIdle (s.readX r) := by
  simp [hostRead, portReg_x]

theorem hostRead_cmd (s : State) : hostRead 0x10#8 s = s.answer 0#32 := rfl
theorem hostRead_status (s : State) : hostRead 0x11#8 s = s.answer s.status := rfl
theorem hostRead_errcmd (s : State) : hostRead 0x12#8 s = s.answerIfIdle s.errcmd := rfl
theorem hostRead_advs (s : State) : hostRead 0x13#8 s = s.answerIfIdle s.advs := rfl
theorem hostRead_poly (s : State) : hostRead 0x14#8 s = s.answer 0xEDB88320#32 := rfl
theorem hostRead_maxLen (s : State) : hostRead 0x15#8 s = s.answer 0x1FFFFFFF#32 := rfl

theorem portReg_reserved : ∀ a : HostAddr, 0x16#8 ≤ a → portReg a = .reserved := by decide

theorem hostRead_reserved {a : HostAddr} (ha : 0x16#8 ≤ a) (s : State) :
    hostRead a s = s.answer 0#32 := by
  simp [hostRead, portReg_reserved a ha]

/-! ### What a write to an address does (R72–R75) -/

theorem hostWrite_x_of_idle {s : State} (r : Reg) (v : Word) (h : s.busy = false) :
    hostWrite (0#4 ++ r) v s = .settle (s.writeX r v).retire := by
  simp [hostWrite, portReg_x, h]

theorem hostWrite_status (v : Word) (s : State) :
    hostWrite 0x11#8 v s = .settle s.clearError.retire := rfl

theorem not_readOnly_generalRegister : ∀ r : Reg, ¬ 0x12#8 ≤ 0#4 ++ r := by decide

/-- The addresses from ERRCMD on name no register that a host write reaches (R75). -/
theorem portReg_readOnly (a : HostAddr) (ha : 0x12#8 ≤ a) :
    (∀ r, portReg a ≠ .x r) ∧ portReg a ≠ .cmd ∧ portReg a ≠ .status := by
  refine ⟨fun r hp => ?_, fun hp => ?_, fun hp => ?_⟩
  · rw [portReg_eq_x a r hp] at ha
    exact absurd ha (not_readOnly_generalRegister r)
  · rw [portReg_eq_cmd a hp] at ha
    exact absurd ha (by decide)
  · rw [portReg_eq_status a hp] at ha
    exact absurd ha (by decide)

theorem hostWrite_readOnly {a : HostAddr} (ha : 0x12#8 ≤ a) (v : Word) (s : State) :
    hostWrite a v s = .settle s.retire := by
  obtain ⟨hx, hcmd, hstatus⟩ := portReg_readOnly a ha
  rcases hostWrite_cases a v s with ⟨r, hp, _⟩ | ⟨r, hp, _⟩ | ⟨hp, _⟩ | ⟨hp, _⟩ | hw
  · exact absurd hp (hx r)
  · exact absurd hp (hx r)
  · exact absurd hp hcmd
  · exact absurd hp hstatus
  · exact hw

/-! ### A write to CMD, by the state it meets (R80) -/

section CmdWrite

variable {s : State} {w : Word} {rest : List Event}

theorem nextAction_cmdWrite (h : s.schedule = .write 0x10#8 w :: rest) :
    nextAction s = issueWord w s :=
  nextAction_write s 0x10#8 w rest h

/-- Step 1: with a command in flight the write is discarded and raises OVERRUN. -/
theorem step_cmdWrite_busy (h : s.schedule = .write 0x10#8 w :: rest) (hb : s.busy = true) :
    step s = .next (s.raise .overrun w).retire :=
  step_of_settle s _ ((nextAction_cmdWrite h).trans (by simp [issueWord, hb]))

/-- Step 2: with an error recorded the write is dropped. -/
theorem step_cmdWrite_error (h : s.schedule = .write 0x10#8 w :: rest) (hb : s.busy = false)
    (he : s.err ≠ .noError) : step s = .next s.retire :=
  step_of_settle s _ ((nextAction_cmdWrite h).trans (by simp [issueWord, hb, he]))

/-- Step 3: a word that spells no command raises ILLEGAL. -/
theorem step_cmdWrite_illegal (h : s.schedule = .write 0x10#8 w :: rest) (hr : s.Ready)
    {e : IllegalWord} (hd : decode w = .error e) : step s = .next (s.raise .illegal w).retire := by
  obtain ⟨hb, he⟩ := hr
  exact step_of_settle s _ ((nextAction_cmdWrite h).trans (by simp [issueWord, hb, he, hd]))

/-- Steps 4 and 5: a word that spells a command issues it. -/
theorem step_cmdWrite_legal (h : s.schedule = .write 0x10#8 w :: rest) (hr : s.Ready)
    {i : Instr} (hd : decode w = .ok i) : step s = .next (issue i s).retire := by
  obtain ⟨hb, he⟩ := hr
  have hrun : nextAction s = .run i :=
    (nextAction_cmdWrite h).trans (by simp [issueWord, hb, he, hd])
  obtain ⟨f, hf, _⟩ := exec_eq_command i
  rw [step_of_run s i hrun, hf, command_idle i f s hb]

theorem issue_of_check_fails {i : Instr} {e : ErrCode} (hd : decode w = .ok i)
    (hc : issueCheck i s = some e) : issue i s = s.raise e w := by
  simp [issue, hc, encode_of_decode hd]

theorem issue_of_check_passes {i : Instr} (hd : decode w = .ok i) (hc : issueCheck i s = none) :
    issue i s = s.accept w := by
  simp [issue, hc, encode_of_decode hd]

/-- A raise in a state without an error, the event that caused it retired: the whole next state. -/
theorem retire_raise_of_noError {ev : Event} (h : s.schedule = ev :: rest) (he : s.err = .noError)
    (e : ErrCode) (w : Word) :
    (s.raise e w).retire = { s with err := e, errcmd := w, schedule := rest } := by
  rw [State.raise_of_noError s e w he, State.retire_of_schedule { s with err := e, errcmd := w } h]

end CmdWrite

/-! ### The fields of STATUS (R37) -/

/-- Each field of STATUS stands in its bits, whatever the code of ERR and the two flags are. -/
theorem State.status_fields (s : State) :
    s.status.getLsbD 0 = s.busy ∧ s.status.getLsbD 1 = s.advValid ∧
    s.status.extractLsb' 2 2 = 0#2 ∧ s.status.extractLsb' 4 4 = s.err.code ∧
    s.status.extractLsb' 8 24 = 0#24 := by
  unfold State.status
  generalize s.err.code = code, s.advValid = valid, s.busy = busy
  revert code valid busy
  decide

end Sys2Proof.Machine
end

section
/-!
PROOF. The host port's statements: access to the registers, STATUS, the read-only and reserved addresses,
and the issue order of a write to CMD (spec/20_memory.md).
-/

namespace Sys2Proof.Machine

/-- Settles O7: the five steps of R80, each by its rule; what a raise or an acceptance records is the word
written, because decoding loses nothing of it. -/
theorem cmdWriteFollowsIssueOrder : Obligations.CmdWriteFollowsIssueOrder := by
  intro s w rest h
  refine ⟨fun hb he => ?overrun, fun hb he => ?overrunKept, fun hb he => ?dropped,
    fun hr ⟨e, hd⟩ => ?illegal, fun i e hr hd hc => ?checkFails, fun i hr hd hc => ?accepted⟩
  case overrun => rw [step_cmdWrite_busy h hb, retire_raise_of_noError h he]
  case overrunKept =>
    rw [step_cmdWrite_busy h hb, State.raise_of_error s _ _ he, State.retire_of_schedule s h]
  case dropped => rw [step_cmdWrite_error h hb he, State.retire_of_schedule s h]
  case illegal => rw [step_cmdWrite_illegal h hr hd, retire_raise_of_noError h hr.2]
  case checkFails =>
    rw [step_cmdWrite_legal h hr hd, issue_of_check_fails hd hc, retire_raise_of_noError h hr.2]
  case accepted =>
    rw [step_cmdWrite_legal h hr hd, issue_of_check_passes hd hc,
      State.retire_of_schedule (s.accept w) h]
    rfl

/-- Settles O12: an idle engine answers a register's read with the register, and a write is `writeX`. -/
theorem idleRegisterAccess : Obligations.IdleRegisterAccess := by
  intro s r rest hb
  refine ⟨fun h => ?_, fun v h => ?_⟩
  · exact step_read_of_answer h ((hostRead_x r s).trans (State.answerIfIdle_of_idle _ hb))
  · refine ⟨(s.writeX r v).retire, step_write_of_settle h (hostWrite_x_of_idle r v hb),
      State.readX_writeX_same s r v, fun q hq => State.readX_writeX_other s r q v hq, ?_⟩
    rw [State.retire_of_schedule (s.writeX r v) h]
    rfl

/-- Settles O13: the fields of STATUS in every state, and `clearError` as all that a write to it does. -/
theorem statusReadAndErrorClear : Obligations.StatusReadAndErrorClear := by
  refine ⟨⟨rfl, rfl, rfl, rfl, rfl, rfl⟩, fun s rest => ⟨fun h => ?_, fun v h => ?_⟩⟩
  · exact ⟨s.status, step_read_of_answer h (hostRead_status s), s.status_fields⟩
  · rw [step_write_of_settle h (hostWrite_status v s), State.retire_of_schedule (s.clearError) h]
    rfl

/-- Settles O14: each address by what it answers; ERRCMD and ADVS answer with the register while the
engine is idle. -/
theorem readOnlyAndReservedAddresses : Obligations.ReadOnlyAndReservedAddresses := by
  intro s a rest
  refine ⟨fun v ha h => ?write, fun h => ⟨fun ha => ?reserved, ?cmd, ?poly, ?maxLen, ?errcmd, ?advs⟩⟩
  case write => rw [step_write_of_settle h (hostWrite_readOnly ha v s), State.retire_of_schedule s h]
  case reserved => exact step_read_of_answer h (hostRead_reserved ha s)
  case cmd => rintro rfl; exact step_read_of_answer h (hostRead_cmd s)
  case poly => rintro rfl; exact step_read_of_answer h (hostRead_poly s)
  case maxLen => rintro rfl; exact step_read_of_answer h (hostRead_maxLen s)
  case errcmd =>
    rintro rfl hb
    exact step_read_of_answer h ((hostRead_errcmd s).trans (State.answerIfIdle_of_idle _ hb))
  case advs =>
    rintro rfl hb
    exact step_read_of_answer h ((hostRead_advs s).trans (State.answerIfIdle_of_idle _ hb))

end Sys2Proof.Machine
end

section
/-!
PROOF. The opcode map read as a function: a word's opcode names at most one row, so the row a word spells
is the one it decodes by, and a word that spells none is illegal (R110–R112).
-/

namespace Sys2Proof

theorem OpcodeRow.spells_iff {r : OpcodeRow} {w : Word} :
    r.spells w = true ↔ w &&& r.mask = r.pattern := beq_iff_eq

theorem OpcodeRow.sharesOpcode_iff {r : OpcodeRow} {w : Word} :
    r.sharesOpcode w = true ↔ w.extractLsb' 24 8 = r.pattern.extractLsb' 24 8 :=
  beq_iff_eq.trans eq_comm

/-- A word that spells a row has the row's opcode, since every mask covers bits `[31:24]`. -/
theorem OpcodeRow.sharesOpcode_of_spells {r : OpcodeRow} (hr : r ∈ opcodeMap) {w : Word}
    (h : r.spells w) : r.sharesOpcode w := by
  have hmask : ∀ q ∈ opcodeMap, q.mask.extractLsb' 24 8 = BitVec.allOnes 8 := by decide
  exact sharesOpcode_iff.mpr (fixed_field h (hmask r hr) rfl).symm

/-- No two rows have the same opcode. -/
theorem OpcodeRow.eq_of_sharesOpcode {r q : OpcodeRow} (hr : r ∈ opcodeMap) (hq : q ∈ opcodeMap)
    {w : Word} (hrw : r.sharesOpcode w) (hqw : q.sharesOpcode w) : r = q := by
  have hnodup : (opcodeMap.map fun r => r.pattern.extractLsb' 24 8).Nodup := by decide
  exact List.inj_on_of_nodup_map hnodup hr hq
    ((sharesOpcode_iff.mp hrw).symm.trans (sharesOpcode_iff.mp hqw))

/-- No two rows are spelled by one word. -/
theorem OpcodeRow.eq_of_spells {r q : OpcodeRow} (hr : r ∈ opcodeMap) (hq : q ∈ opcodeMap)
    {w : Word} (hrw : r.spells w) (hqw : q.spells w) : r = q :=
  eq_of_sharesOpcode hr hq (sharesOpcode_of_spells hr hrw) (sharesOpcode_of_spells hq hqw)

/-- A word decodes by the row it spells. -/
theorem decode_of_spells {r : OpcodeRow} (hr : r ∈ opcodeMap) {w : Word} (h : r.spells w) :
    decode w = .ok (r.read w) := by
  cases hf : opcodeMap.find? (fun q => q.spells w) with
  | none => exact absurd h (List.find?_eq_none.mp hf r hr)
  | some q =>
    have hqw : q.spells w := by simpa using List.find?_some hf
    have hq : q = r := OpcodeRow.eq_of_spells (List.mem_of_find?_eq_some hf) hr hqw h
    simp [decode, hf, hq]

/-- A word that spells no row is illegal, and whether a row has its opcode says of which kind. -/
theorem decode_of_spells_none {w : Word} (h : ∀ r ∈ opcodeMap, ¬ r.spells w) :
    decode w = .error
      (if opcodeMap.any (fun r => r.sharesOpcode w) then .mustBeZero else .unassignedOpcode) := by
  simp only [decode, List.find?_eq_none.mpr h]

theorem exists_decode_error_iff {w : Word} :
    (∃ e, decode w = .error e) ↔ ∀ r ∈ opcodeMap, ¬ r.spells w := by
  refine ⟨fun ⟨e, he⟩ r hr h => ?_, fun h => ⟨_, decode_of_spells_none h⟩⟩
  rw [decode_of_spells hr h] at he
  cases he

theorem decode_eq_unassignedOpcode_iff {w : Word} :
    decode w = .error .unassignedOpcode ↔ ∀ r ∈ opcodeMap, ¬ r.sharesOpcode w := by
  constructor
  · intro h
    rw [decode_of_spells_none (exists_decode_error_iff.mp ⟨_, h⟩)] at h
    simpa using h
  · intro h
    rw [decode_of_spells_none fun r hr hs => h r hr (OpcodeRow.sharesOpcode_of_spells hr hs)]
    simpa using h

theorem decode_eq_mustBeZero_iff {w : Word} :
    decode w = .error .mustBeZero ↔ ∃ r ∈ opcodeMap, r.sharesOpcode w ∧ ¬ r.spells w := by
  constructor
  · intro h
    have hnone := exists_decode_error_iff.mp ⟨_, h⟩
    rw [decode_of_spells_none hnone] at h
    obtain ⟨r, hr, hrw⟩ : ∃ r ∈ opcodeMap, r.sharesOpcode w := by simpa using h
    exact ⟨r, hr, hrw, hnone r hr⟩
  · rintro ⟨r, hr, hrw, hrn⟩
    have hnone : ∀ q ∈ opcodeMap, ¬ q.spells w := fun q hq hqw =>
      hrn (OpcodeRow.eq_of_sharesOpcode hq hr (OpcodeRow.sharesOpcode_of_spells hq hqw) hrw ▸ hqw)
    rw [decode_of_spells_none hnone, if_pos (List.any_eq_true.mpr ⟨r, hr, hrw⟩)]

end Sys2Proof
end

section
/-!
PROOF. The statement about the illegal words (R111).
-/

namespace Sys2Proof.Machine

open Sys2Proof.Statements

/-- The columns of R110 are those of the decoder's own map. -/
theorem maskAndMatch_eq_opcodeMap :
    maskAndMatch = opcodeMap.map fun r => (r.mask, r.pattern) := rfl

/-- Settles O4: the decoder's answers by its own map's rows, whose columns are the spec's; and step 3 of
R80 for an illegal word. -/
theorem illegalWordsRaiseIllegal : Obligations.IllegalWordsRaiseIllegal := by
  refine ⟨fun w => ?illegal, fun w => ?unassigned, fun w => ?mustBeZero,
    fun s w e rest hr h hd => ?raised⟩
  case illegal =>
    rw [exists_decode_error_iff, maskAndMatch_eq_opcodeMap, List.forall_mem_map]
    simp only [OpcodeRow.spells_iff, ne_eq]
  case unassigned =>
    have hcolumn : w.extractLsb' 24 8 ∉ opcodeMap.map (fun r => r.pattern.extractLsb' 24 8) ↔
        ∀ r ∈ opcodeMap, ¬ r.sharesOpcode w := by
      simp only [OpcodeRow.sharesOpcode_iff, List.mem_map, not_exists, not_and,
        eq_comm (a := w.extractLsb' 24 8)]
    exact decode_eq_unassignedOpcode_iff.trans hcolumn.symm
  case mustBeZero =>
    rw [decode_eq_mustBeZero_iff, maskAndMatch_eq_opcodeMap]
    simp only [OpcodeRow.sharesOpcode_iff, OpcodeRow.spells_iff, List.mem_map,
      exists_exists_and_eq_and, ne_eq]
  case raised => rw [step_cmdWrite_illegal h hr hd, retire_raise_of_noError h hr.2]

end Sys2Proof.Machine
end

section
/-!
PROOF. An encoded command decodes to that command (R110): field by field, its word holds what the mask of
the command's row fixes, and the row's reader finds every operand where the encoder put it.
-/

namespace Sys2Proof

/-- A word cut in two matches a mask if each part matches its part of the mask. -/
theorem append_and_eq {m n : Nat} {a : BitVec m} {b : BitVec n} {mask pattern : BitVec (m + n)}
    (ha : a &&& mask.extractLsb' n m = pattern.extractLsb' n m)
    (hb : b &&& mask.extractLsb' 0 n = pattern.extractLsb' 0 n) : (a ++ b) &&& mask = pattern := by
  have cut (w : BitVec (m + n)) : w.extractLsb' n m ++ w.extractLsb' 0 n = w := by
    rw [BitVec.extractLsb'_append_extractLsb'_eq_extractLsb' (by simp), BitVec.extractLsb'_eq_self]
  rw [← cut mask, ← cut pattern, BitVec.and_append, ha, hb]

/-- An operand matches where the mask leaves its field open. -/
theorem open_field {n : Nat} {a mask pattern : BitVec n} (hm : mask = 0#n) (hp : pattern = 0#n) :
    a &&& mask = pattern := by
  rw [hm, hp, BitVec.and_zero]

/-- A field above the last `n` bits is a field of what stands before them. -/
theorem extractLsb'_append_high {m n st k : Nat} {a : BitVec m} {b : BitVec n} {c : BitVec k}
    (h : a.extractLsb' st k = c) : (a ++ b).extractLsb' (st + n) k = c := by
  rw [BitVec.extractLsb'_append_eq_of_le (Nat.le_add_left n st), Nat.add_sub_cancel, h]

/-- The direction is read back from its bit (R104). -/
theorem dirOf_eq {w : Word} {d : Dir} (h : w.extractLsb' 0 1 = d.bit) : dirOf w = d := by
  have hinj : ∀ a b : Dir, a.bit = b.bit → a = b := by rintro ⟨⟩ ⟨⟩ <;> decide
  exact hinj _ _ ((bit_dirOf w).trans h)

theorem Instr.ctorIdx_lt (i : Instr) : i.ctorIdx < opcodeMap.length := by
  cases i <;> exact Nat.le_of_ble_eq_true rfl

/-- The row of a command: the rows of the opcode map stand in the order of the constructors. -/
def Instr.row (i : Instr) : OpcodeRow := opcodeMap[i.ctorIdx]'i.ctorIdx_lt

theorem Instr.row_mem (i : Instr) : i.row ∈ opcodeMap := List.getElem_mem i.ctorIdx_lt

theorem OpcodeRow.spells_mk {mask pattern w : Word} {read : Word → Instr}
    (h : w &&& mask = pattern) : OpcodeRow.spells ⟨mask, pattern, read⟩ w :=
  spells_iff.mpr h

/-- A command's word spells the command's row: its fixed fields are the pattern's, and the mask leaves the
others open. -/
theorem Instr.row_spells_encode (i : Instr) : i.row.spells (encode i) := by
  cases i
  all_goals apply OpcodeRow.spells_mk
  all_goals repeat' apply append_and_eq
  any_goals rfl
  all_goals exact open_field rfl rfl

/-- The reader of a command's row reads the command back from its word, operand by operand. -/
theorem Instr.row_read_encode (i : Instr) : i.row.read (encode i) = i := by
  cases i
  all_goals simp only [Instr.row, Instr.ctorIdx, opcodeMap, List.getElem_cons_succ,
    List.getElem_cons_zero]
  all_goals congr 1
  any_goals apply dirOf_eq
  all_goals repeat apply extractLsb'_append_high
  all_goals exact BitVec.extractLsb'_append_eq_right

theorem decode_encode (i : Instr) : decode (encode i) = .ok i :=
  (decode_of_spells i.row_mem i.row_spells_encode).trans (congrArg _ i.row_read_encode)

end Sys2Proof
end

section
/-!
PROOF. A sequence of commands, each written to CMD of a ready engine and then completed (R80, R81): what
one command brings about, and how the effects of a sequence add up.
-/

namespace Sys2Proof.Machine

open Sys2Proof.Statements

/-! ### The two steps of one command -/

/-- A command written to a ready engine is accepted if its check passes. -/
theorem step_accept {i : Instr} {s : State} {rest : List Event} (hr : s.Ready)
    (hs : s.schedule = .write 0x10#8 (encode i) :: rest) (hc : issueCheck i s = none) :
    step s = .next (s.accept (encode i)).retire := by
  rw [step_cmdWrite_legal hs hr (decode_encode i), issue_of_check_passes (decode_encode i) hc]

/-- The command in flight completes at the engine's turn. -/
theorem step_complete {i : Instr} {f : State → State} {s : State}
    (hi : ∀ u, exec i u = command i f u) (he : s.EngineTurn) (hb : s.busy = true)
    (hp : s.pend = encode i) : step s = .next (f s).finish.retire := by
  have hrun : nextAction s = .run i := by
    simp only [nextAction_turn s he, engineTurn, hb, hp, decode_encode, if_true]
  rw [step_of_run s i hrun, hi, command_inFlight i f s hb]

theorem run_succ {s t : State} (n : Nat) (h : step s = .next t) :
    Sys2Proof.core.run (n + 1) s = Sys2Proof.core.run n t := by
  have hstep : Sys2Proof.core.step s = .next t := h
  simp only [Host.Core.run, hstep]

/-- The command, written to CMD of a ready engine and then completed, leaves a ready engine with the same
advance table, and has the effect `post`. -/
def Completes (i : Instr) (post : State → State → Prop) : Prop :=
  ∀ (s : State) (rest : List Event), s.Ready →
    s.schedule = .write 0x10#8 (encode i) :: .engine :: rest →
    ∃ u : State, (∀ n, Sys2Proof.core.run (n + 2) s = Sys2Proof.core.run n u) ∧ u.Ready ∧
      u.schedule = rest ∧ TableKept s u ∧ post s u

/-- A command without a check, whose effect leaves ERR, the schedule and the advance table alone. -/
theorem completes_of_effect {i : Instr} {f : State → State} {post : State → State → Prop}
    (hi : ∀ u, exec i u = command i f u) (hc : ∀ u, issueCheck i u = none)
    (herr : ∀ u, (f u).err = u.err) (hsched : ∀ u, (f u).schedule = u.schedule)
    (hadv : ∀ u, (f u).adv = u.adv) (hadvs : ∀ u, (f u).advs = u.advs)
    (hvalid : ∀ u, (f u).advValid = u.advValid)
    (hpost : ∀ s, post s (f (s.accept (encode i)).retire).finish.retire) : Completes i post := by
  intro s rest hr hs
  have hs₁ : (s.accept (encode i)).retire.schedule = .engine :: rest := by simp [hs]
  refine ⟨_, fun n => ?run, ⟨rfl, ?err⟩, ?sched, ⟨fun b => ?adv, ?advs, ?valid⟩, hpost s⟩
  case run =>
    rw [run_succ (n + 1) (step_accept hr hs (hc s)),
      run_succ n (step_complete hi (.inr ⟨rest, hs₁⟩) rfl rfl)]
  case err => simp [herr, hr.2]
  case sched => simp [hsched, hs]
  case adv => exact State.readAdv_congr _ _ (by simp [hadv]) b
  case advs => simp [hadvs]
  case valid => simp [hvalid]

/-- A command without a check that writes `x[d]` with a value that its acceptance does not change. -/
theorem completes_writeX {i : Instr} {d : Reg} {v : State → Word}
    (hi : ∀ u, exec i u = command i (fun u => u.writeX d (v u)) u)
    (hc : ∀ u, issueCheck i u = none) (hv : ∀ s w, v (s.accept w).retire = v s) :
    Completes i (SetsX d v) := by
  refine completes_of_effect hi hc (fun _ => rfl) (fun _ => rfl) (fun _ => rfl) (fun _ => rfl)
    (fun _ => rfl) fun s => ⟨?_, fun r hr => ?_, fun j => rfl⟩
  · exact (State.readX_writeX_same _ d _).trans (hv s _)
  · exact State.readX_writeX_other (s.accept (encode i)).retire d r _ hr

/-- `m[md]` is `M`; every other matrix register and every general register is as it was. -/
def SetsM (md : MReg) (M : State → BitMatrix32) (s t : State) : Prop :=
  t.readM md = M s ∧ (∀ j, j ≠ md → t.readM j = s.readM j) ∧ ∀ r, t.readX r = s.readX r

/-- A command without a check that writes `m[md]` with a matrix that its acceptance does not change. -/
theorem completes_writeM {i : Instr} {md : MReg} {M : State → BitMatrix32}
    (hi : ∀ u, exec i u = command i (fun u => u.writeM md (M u)) u)
    (hc : ∀ u, issueCheck i u = none) (hM : ∀ s w, M (s.accept w).retire = M s) :
    Completes i (SetsM md M) := by
  refine completes_of_effect hi hc (fun _ => rfl) (fun _ => rfl) (fun _ => rfl) (fun _ => rfl)
    (fun _ => rfl) fun s => ⟨?_, fun j hj => ?_, fun r => rfl⟩
  · exact (State.readM_writeM_same _ md _).trans (hM s _)
  · exact State.readM_writeM_other (s.accept (encode i)).retire md j _ hj

/-! ### The commands that the pseudo-instructions expand to -/

theorem completes_lil (d : Reg) (imm16 : BitVec 16) :
    Completes (.lil d imm16) (SetsX d fun _ => zextImm16 imm16) :=
  completes_writeX (fun _ => rfl) (fun _ => rfl) fun _ _ => rfl

theorem completes_lih (d : Reg) (imm16 : BitVec 16) : Completes (.lih d imm16)
    (SetsX d fun u => (zextImm16 imm16 <<< 16) ||| lowHalf (u.readX d)) :=
  completes_writeX (fun _ => rfl) (fun _ => rfl) fun _ _ => rfl

theorem completes_xor (d s t : Reg) :
    Completes (.xor d s t) (SetsX d fun u => u.readX s ^^^ u.readX t) :=
  completes_writeX (fun _ => rfl) (fun _ => rfl) fun _ _ => rfl

theorem completes_fin (d s : Reg) :
    Completes (.fin d s) (SetsX d fun u => u.readX s ^^^ Config.xorOut) :=
  completes_writeX (fun _ => rfl) (fun _ => rfl) fun _ _ => rfl

theorem completes_upd (d s t : Reg) :
    Completes (.upd d s t) (SetsX d fun u => upd (u.readX s) (lowByte (u.readX t))) :=
  completes_writeX (fun _ => rfl) (fun _ => rfl) fun _ _ => rfl

theorem completes_updi (d s : Reg) (b : Byte) :
    Completes (.updi d s b) (SetsX d fun u => upd (u.readX s) b) :=
  completes_writeX (fun _ => rfl) (fun _ => rfl) fun _ _ => rfl

theorem completes_zpad (d s n : Reg) (dir : Dir) :
    Completes (.zpad d s n dir) (SetsX d fun u => zeroPad (u.readX s) (u.readX n) dir) :=
  completes_writeX (fun _ => rfl) (fun _ => rfl) fun _ _ => rfl

theorem completes_mpow (md : MReg) (s : Reg) (dir : Dir) :
    Completes (.mpow md s dir) (SetsM md fun u => gfPow dir (u.readX s)) :=
  completes_writeM (fun _ => rfl) (fun _ => rfl) fun _ _ => rfl

/-! ### Sequences -/

theorem TableKept.trans {s u t : State} (h₁ : TableKept s u) (h₂ : TableKept u t) :
    TableKept s t where
  adv b := (h₂.adv b).trans (h₁.adv b)
  advs := h₂.advs.trans h₁.advs
  advValid := h₂.advValid.trans h₁.advValid

theorem achieves_nil : Achieves [] Eq :=
  fun s hr hs => ⟨s, rfl, hr, hs, ⟨fun _ => rfl, rfl, rfl⟩, rfl⟩

/-- One command more in front of a sequence. -/
theorem achieves_cons {i : Instr} {is : List Instr} {P Q R : State → State → Prop}
    (hi : Completes i P) (his : Achieves is Q) (hR : ∀ s u t, P s u → Q u t → R s t) :
    Achieves (i :: is) R := by
  intro s hr hs
  obtain ⟨u, hrun, hru, hsu, htable, hP⟩ := hi s _ hr hs
  obtain ⟨t, hrun', hrt, hst, htable', hQ⟩ := his u hru hsu
  exact ⟨t, (hrun (2 * is.length)).trans hrun', hrt, hst, htable.trans htable', hR s u t hP hQ⟩

theorem achieves_single {i : Instr} {P : State → State → Prop} (hi : Completes i P) :
    Achieves [i] P :=
  achieves_cons hi achieves_nil fun _ _ _ hP h => h ▸ hP

/-- Two settings of one register, one after the other, are the second alone. -/
theorem SetsX_trans {d : Reg} {v w v' : State → Word} {s u t : State} (h₁ : SetsX d v s u)
    (h₂ : SetsX d w u t) (hv : w u = v' s) : SetsX d v' s t := by
  obtain ⟨-, hregs₁, hmats₁⟩ := h₁
  obtain ⟨hdest₂, hregs₂, hmats₂⟩ := h₂
  exact ⟨hdest₂.trans hv, fun r hr => (hregs₂ r hr).trans (hregs₁ r hr),
    fun j => (hmats₂ j).trans (hmats₁ j)⟩

/-- A command that sets `x[d]` in front of a sequence that sets it again. -/
theorem achieves_cons_setsX {i : Instr} {is : List Instr} {d : Reg} {v w v' : State → Word}
    (hi : Completes i (SetsX d v)) (his : Achieves is (SetsX d w))
    (hv : ∀ s u, SetsX d v s u → w u = v' s) : Achieves (i :: is) (SetsX d v') :=
  achieves_cons hi his fun s u _ h₁ h₂ => SetsX_trans h₁ h₂ (hv s u h₁)

end Sys2Proof.Machine
end

section
/-!
PROOF. The pseudo-instructions (R121): what each line assembles to, and the values their expansions leave.
-/

namespace Sys2Proof

/-! ### Operands of a source line (R120) -/

@[simp] theorem ArgKind.admits_x (r : Reg) : ArgKind.admits .x (.x r.toNat) = true :=
  decide_eq_true r.isLt

@[simp] theorem ArgKind.admits_m (j : MReg) : ArgKind.admits .m (.m j.toNat) = true :=
  decide_eq_true j.isLt

@[simp] theorem ArgKind.admits_byte (b : Byte) : ArgKind.admits .byte (.num b.toNat) = true :=
  decide_eq_true b.isLt

@[simp] theorem ArgKind.admits_imm32 (v : Word) : ArgKind.admits .imm32 (.num v.toNat) = true :=
  decide_eq_true v.isLt

theorem natCast_toNat {n : Nat} (b : BitVec n) : ((b.toNat : Nat) : BitVec n) = b := by
  simp

/-- The number of `LI`, cut to 16 bits, is its lower half. -/
theorem natCast_low_half (v : Word) : ((v.toNat : Nat) : BitVec 16) = v.extractLsb' 0 16 := by
  apply BitVec.eq_of_toNat_eq
  simp

/-- The number of `LI`, divided by 2^16, is its upper half. -/
theorem natCast_high_half (v : Word) :
    ((v.toNat / 65536 : Nat) : BitVec 16) = v.extractLsb' 16 16 := by
  apply BitVec.eq_of_toNat_eq
  simp [Nat.shiftRight_eq_div_pow]

namespace Machine

open Sys2Proof.Statements

/-- What a well-formed line assembles to is its expansion, with the numbers cut to their fields. -/
theorem assembleLine_of_wellFormed {l : AsmLine} {is js : List Instr} (hw : l.wellFormed = true)
    (he : expand l.op l.args = some js) (hjs : js = is) : assembleLine l = some is :=
  (if_pos hw).trans (hjs ▸ he)

/-- HASHB is well-formed with different operands (R121). -/
theorem wellFormed_hashb {d s : Reg} (hds : d ≠ s) :
    AsmLine.wellFormed ⟨.hashb, [.x d.toNat, .x s.toNat]⟩ = true := by
  simp [AsmLine.wellFormed, AsmOp.shape, fitsShape, BitVec.toNat_inj, hds]

/-! ### Values -/

/-- LIL and LIH put the two halves of a word together (R291, R292). -/
theorem lih_of_lil (v : Word) :
    (zextImm16 (v.extractLsb' 16 16) <<< 16) ||| lowHalf (zextImm16 (v.extractLsb' 0 16)) = v := by
  ext k hk
  by_cases hlow : k < 16
  · simp [zextImm16, lowHalf, hlow, hk, BitVec.getLsbD_eq_getElem]
  · have hhigh : 16 + (k - 16) = k := by omega
    have hlt : k - 16 < 16 := by omega
    simp [zextImm16, lowHalf, hlow, hhigh, hlt, hk, BitVec.getLsbD_eq_getElem]

/-- FIN undoes FIN (R294). -/
theorem xor_xorOut_xorOut (v : Word) : v ^^^ Config.xorOut ^^^ Config.xorOut = v := by
  rw [BitVec.xor_assoc, BitVec.xor_self, BitVec.xor_zero]

/-- The operator for no bits is the identity: no bit of the exponent asks for a product (R175). -/
theorem gfPow_zero (dir : Dir) : gfPow dir 0#32 = gfIdentity :=
  (List.foldl_hom Prod.fst (g₂ := fun acc _ => acc) fun p k => by simp).symm.trans
    (List.foldl_fixed _)

theorem getRow_gfIdentity (k : RowIx) : getRow gfIdentity k = 1#32 <<< (31 - k.toNat) := by
  simp [getRow, gfIdentity, basisVector]

/-! ### Expansions -/

theorem achieves_li (d : Reg) (v : Word) :
    Achieves [.lil d (v.extractLsb' 0 16), .lih d (v.extractLsb' 16 16)] (SetsX d fun _ => v) := by
  refine achieves_cons_setsX (completes_lil d _) (achieves_single (completes_lih d _)) ?_
  rintro s u ⟨hu, -⟩
  simp only [hu, lih_of_lil]

theorem achieves_clr (d : Reg) : Achieves [.xor d d d] (SetsX d fun _ => 0#32) := by
  simpa only [BitVec.xor_self] using achieves_single (completes_xor d d d)

theorem achieves_mov (d s : Reg) :
    Achieves [.fin d s, .fin d d] (SetsX d fun u => u.readX s) := by
  refine achieves_cons_setsX (completes_fin d s) (achieves_single (completes_fin d d)) ?_
  rintro t u ⟨hu, -⟩
  simp only [hu, xor_xorOut_xorOut]

/-- INIT, one byte step, XOROUT: the hash of one byte (R142), when the byte does not come from `x[d]`. -/
theorem achieves_hash {d : Reg} {i : Instr} {byte : State → Byte}
    (hi : Completes i (SetsX d fun u => upd (u.readX d) (byte u)))
    (hbyte : ∀ (v : State → Word) (s u : State), SetsX d v s u → byte u = byte s) :
    Achieves [.lil d 0xFFFF#16, .lih d 0xFFFF#16, i, .fin d d]
      (SetsX d fun u => crcHash [byte u]) := by
  have hinit : (zextImm16 0xFFFF#16 <<< 16) ||| lowHalf (zextImm16 0xFFFF#16) = Config.init :=
    lih_of_lil Config.init
  have hfin : Achieves [i, .fin d d]
      (SetsX d fun u => upd (u.readX d) (byte u) ^^^ Config.xorOut) :=
    achieves_cons_setsX hi (achieves_single (completes_fin d d)) fun s u hu => by simp only [hu.1]
  have hlih : Achieves [.lih d 0xFFFF#16, i, .fin d d] (SetsX d fun u =>
      upd ((zextImm16 0xFFFF#16 <<< 16) ||| lowHalf (u.readX d)) (byte u) ^^^ Config.xorOut) :=
    achieves_cons_setsX (completes_lih d _) hfin fun s u hu => by simp only [hu.1, hbyte _ s u hu]
  refine achieves_cons_setsX (completes_lil d _) hlih fun s u hu => ?_
  simp only [hu.1, hinit, hbyte _ s u hu]
  rfl

/-- Setting `x[d]` leaves the byte in another register alone. -/
theorem lowByte_of_setsX {d r : Reg} (hdr : d ≠ r) (v : State → Word) (s u : State)
    (h : SetsX d v s u) : lowByte (u.readX r) = lowByte (s.readX r) := by
  obtain ⟨-, hregs, -⟩ := h
  rw [hregs r hdr.symm]

theorem achieves_mident (md : MReg) :
    Achieves [.xor 15#4 15#4 15#4, .mpow md 15#4 .fwd] fun u t =>
      t.readX 15#4 = 0#32 ∧ (∀ r, r ≠ 15#4 → t.readX r = u.readX r) ∧
      (∀ k, getRow (t.readM md) k = 1#32 <<< (31 - k.toNat)) ∧
      ∀ j, j ≠ md → t.readM j = u.readM j := by
  refine achieves_cons (completes_xor 15#4 15#4 15#4)
    (achieves_single (completes_mpow md 15#4 .fwd)) ?_
  rintro s u t ⟨hdest, hregs, hmats⟩ ⟨hm, hmats', hregs'⟩
  have hzero : u.readX 15#4 = 0#32 := hdest.trans BitVec.xor_self
  refine ⟨(hregs' _).trans hzero, fun r hr => (hregs' r).trans (hregs r hr), fun k => ?_,
    fun j hj => (hmats' j hj).trans (hmats j)⟩
  rw [hm]
  simp only [hzero, gfPow_zero, getRow_gfIdentity]

/-- Settles O44: each line is well-formed and expands as shown, its numbers being those of its operands;
and each expansion has its effect. -/
theorem pseudoInstructionsHaveTheirEffect : Obligations.PseudoInstructionsHaveTheirEffect := by
  intro d s n md b v
  refine ⟨⟨?_, achieves_li d v⟩, ⟨?_, achieves_clr d⟩, ⟨?_, achieves_mov d s⟩,
    ⟨?_, achieves_single (completes_fin d s)⟩, ⟨?_, achieves_single (completes_updi d s 0x00#8)⟩,
    ⟨?_, achieves_hash (completes_updi d d b) fun _ _ _ _ => rfl⟩,
    fun hds => ⟨?hashb, achieves_hash (completes_upd d d s) (lowByte_of_setsX hds)⟩,
    ⟨?_, achieves_mident md⟩, ⟨?_, achieves_single (completes_zpad d s n .fwd)⟩,
    ⟨?_, achieves_single (completes_zpad d s n .inv)⟩⟩
  case hashb =>
    exact assembleLine_of_wellFormed (wellFormed_hashb hds) rfl
      (by simp only [natCast_toNat, BitVec.ofNat_eq_ofNat])
  all_goals
    refine assembleLine_of_wellFormed ?wellFormed rfl ?operands
    case wellFormed => simp [AsmLine.wellFormed, AsmOp.shape, fitsShape]
    case operands =>
      simp only [natCast_toNat, natCast_low_half, natCast_high_half, BitVec.ofNat_eq_ofNat]

end Machine

end Sys2Proof
end

section
/-!
PROOF. The whole rule of a plain command: its word is its encoding, a ready engine accepts it, and in
flight it completes with its effect (R80, R81). And the statements of the CRC update engine
(spec/40_crc_update.md).
-/

namespace Sys2Proof.Machine

/-- The one word that spells a command is its encoding (R110). -/
theorem spells_encode (i : Instr) : Spells (encode i) i :=
  fun _ => ⟨fun h => (encode_of_decode h).symm, fun h => h ▸ decode_encode i⟩

section OneCommand

variable {i : Instr} {f : State → State}

/-- A ready engine accepts a command whose check passes. -/
theorem accepts_of_check_passes {s : State} (hi : ∀ u, exec i u = command i f u) (hr : s.Ready)
    (hc : issueCheck i s = none) : Accepts i (encode i) s := by
  unfold Accepts
  rw [hi, command_idle i f s hr.1, issue_of_check_passes (decode_encode i) hc]
  rfl

/-- In flight a command completes with its effect. -/
theorem exec_inFlight {s : State} (hi : ∀ u, exec i u = command i f u) (hb : s.busy = true) :
    exec i s = .next (f s).finish.retire :=
  (hi s).trans (command_inFlight i f s hb)

/-- A completion that writes `v` to `x[rd]` leaves everything else as it was. -/
theorem wroteX_writeX (s : State) (rd : Reg) (v : Word) :
    WroteX s (s.writeX rd v).finish.retire rd v where
  dest := State.readX_writeX_same s rd v
  regs q hq := State.readX_writeX_other s rd q v hq
  mats _ := rfl
  table := ⟨fun _ => rfl, rfl, rfl⟩
  control := ⟨rfl, rfl, rfl, rfl, rfl, rfl, rfl⟩

/-- The rule of a command without a check, from what its completion leaves. -/
theorem plainCommand_of_effect {effect : State → State → Prop}
    (hi : ∀ u, exec i u = command i f u) (hc : ∀ u, issueCheck i u = none)
    (heffect : ∀ s, effect s (f s).finish.retire) : PlainCommand i (encode i) effect :=
  ⟨spells_encode i, fun s hr => accepts_of_check_passes hi hr (hc s),
    fun s hb => ⟨_, exec_inFlight hi hb, heffect s⟩⟩

/-- The rule of a command without a check that writes one general register. -/
theorem plainCommand_writeX {rd : Reg} {v : State → Word}
    (hi : ∀ u, exec i u = command i (fun u => u.writeX rd (v u)) u)
    (hc : ∀ u, issueCheck i u = none) :
    PlainCommand i (encode i) fun s t => WroteX s t rd (v s) :=
  plainCommand_of_effect hi hc fun s => wroteX_writeX s rd (v s)

end OneCommand

/-- Settles O32: each of the three is a plain command that writes `x[rd]`, spelled by its encoding. -/
theorem updUpdiAndTblRules : Obligations.UpdUpdiAndTblRules := by
  intro rd rs1 rs2 byte
  refine ⟨?upd, ?updi, ?tbl⟩
  case upd => exact plainCommand_writeX (i := .upd rd rs1 rs2) (fun _ => rfl) fun _ => rfl
  case updi => exact plainCommand_writeX (i := .updi rd rs1 byte) (fun _ => rfl) fun _ => rfl
  case tbl => exact plainCommand_writeX (i := .tbl rd rs1) (fun _ => rfl) fun _ => rfl

/-- The hash is the working form with the final XOR (R142). -/
theorem crcHash_eq_working (s : List Byte) : crcHash s = working s ^^^ Config.xorOut := rfl

/-- Settles O60: the two formulas are the definitions, and the final XOR undoes itself. -/
theorem updateAndHashFormulas : Obligations.UpdateAndHashFormulas := by
  refine ⟨fun r b => ?upd, fun s => ?hash, fun s => ?working⟩
  case upd => rfl
  case hash => rfl
  case working =>
    calc working s = working s ^^^ Config.xorOut ^^^ Config.xorOut :=
          (xor_xorOut_xorOut (working s)).symm
      _ = crcHash s ^^^ 0xFFFFFFFF#32 := by rw [crcHash_eq_working, Config.xorOut]

end Sys2Proof.Machine
end

section
/-!
PROOF. The GF(2) operator engine's functions: the product of a matrix and a vector as an exclusive-or over
the rows, its linearity, and what it says of the product of matrices, the identity, the base operators and
their powers (spec/41_gf2_operator.md section 1).
-/

namespace Sys2Proof.Machine

/-! ### The exclusive-or over the row indices -/

/-- The exclusive-or of one word for each row index in `s`. -/
def xorOver (s : Finset (Fin 32)) (f : Fin 32 → Word) : Word := s.fold (· ^^^ ·) 0#32 f

/-- R172 as such a sum: each row, or 0 where the vector's bit is clear. -/
theorem gfApply_eq_xorOver (M : BitMatrix32) (v : Word) :
    gfApply M v = xorOver .univ fun k => if v.getLsbD (31 - k.val) then M[k] else 0#32 :=
  List.foldr_map.symm

section XorOver

variable (s : Finset (Fin 32))

theorem xorOver_xor (f g : Fin 32 → Word) :
    xorOver s (fun k => f k ^^^ g k) = xorOver s f ^^^ xorOver s g :=
  Finset.fold_op_distrib (b₁ := 0#32) (b₂ := 0#32)

theorem xorOver_zero : xorOver s (fun _ => 0#32) = 0#32 :=
  (Finset.fold_const 0#32 rfl).trans (ite_self _)

/-- A map that respects exclusive-or goes under the sum. -/
theorem map_xorOver {h : Word → Word} (hxor : ∀ v w, h (v ^^^ w) = h v ^^^ h w)
    (hzero : h 0#32 = 0#32) (f : Fin 32 → Word) : h (xorOver s f) = xorOver s fun k => h (f k) := by
  have hfold := Finset.fold_hom (op := fun v w : Word => v ^^^ w) (s := s) (f := f) (b := 0#32) hxor
  rw [xorOver, xorOver, ← hfold, hzero]

/-- If all words but one are 0, the sum is that one. -/
theorem xorOver_eq_single {f : Fin 32 → Word} {k : Fin 32} (hk : k ∈ s)
    (h : ∀ j, j ≠ k → f j = 0#32) : xorOver s f = f k := by
  have hrest : xorOver (s.erase k) f = 0#32 :=
    (Finset.fold_congr fun j hj => h j (Finset.ne_of_mem_erase hj)).trans (xorOver_zero _)
  calc xorOver s f = xorOver (insert k (s.erase k)) f := by rw [Finset.insert_erase hk]
    _ = f k ^^^ xorOver (s.erase k) f := Finset.fold_insert (Finset.notMem_erase k s)
    _ = f k := by rw [hrest, BitVec.xor_zero]

end XorOver

/-- Selecting a word by an exclusive-or of bits. -/
theorem ite_bne_xor (b c : Bool) (v : Word) :
    (if b ^^ c then v else 0#32) = (if b then v else 0#32) ^^^ (if c then v else 0#32) := by
  cases b <;> cases c <;> simp

/-! ### Basis vectors (R170) -/

/-- The part of `v` at the bit of row `k`. -/
theorem and_basisVector (v : Word) (k : Fin 32) :
    v &&& basisVector k = if v.getLsbD (31 - k.val) then basisVector k else 0#32 := by
  rw [basisVector, ← BitVec.twoPow_eq, BitVec.and_twoPow]

theorem getLsbD_basisVector (k j : Fin 32) :
    (basisVector k).getLsbD (31 - j.val) = decide (j = k) := by
  revert k j
  decide

/-- Every word is the exclusive-or of the basis vectors of its set bits: it is the word masked by the
exclusive-or of all of them. -/
theorem xorOver_basisVector (v : Word) :
    xorOver .univ (fun k => if v.getLsbD (31 - k.val) then basisVector k else 0#32) = v := by
  have hand (a b : Word) : v &&& (a ^^^ b) = (v &&& a) ^^^ (v &&& b) := by
    ext i
    simp [Bool.and_xor_distrib_left]
  have hall : xorOver .univ basisVector = BitVec.allOnes 32 := by decide
  calc xorOver .univ (fun k => if v.getLsbD (31 - k.val) then basisVector k else 0#32)
      = xorOver .univ fun k => v &&& basisVector k := by simp only [and_basisVector]
    _ = v &&& xorOver .univ basisVector := (map_xorOver _ hand BitVec.and_zero _).symm
    _ = v := by rw [hall, BitVec.and_allOnes]

/-! ### The product of a matrix and a vector (R172) -/

theorem gfApply_xor (M : BitMatrix32) (v w : Word) :
    gfApply M (v ^^^ w) = gfApply M v ^^^ gfApply M w := by
  simp only [gfApply_eq_xorOver, ← xorOver_xor, BitVec.getLsbD_xor, ite_bne_xor]

theorem gfApply_zero (M : BitMatrix32) : gfApply M 0#32 = 0#32 := by
  simpa [gfApply_eq_xorOver] using xorOver_zero _

theorem gfApply_basisVector (M : BitMatrix32) (k : Fin 32) : gfApply M (basisVector k) = M[k] := by
  rw [gfApply_eq_xorOver, xorOver_eq_single _ (Finset.mem_univ k)]
  · simp [getLsbD_basisVector]
  · intro j hj
    simp [getLsbD_basisVector, hj]

/-- A matrix whose rows are the images of the basis vectors under a linear map is the matrix of that map. -/
theorem gfApply_of_rows {M : BitMatrix32} {h : Word → Word}
    (hrows : ∀ k : Fin 32, M[k] = h (basisVector k)) (hxor : ∀ v w, h (v ^^^ w) = h v ^^^ h w)
    (hzero : h 0#32 = 0#32) (v : Word) : gfApply M v = h v := by
  calc gfApply M v
      = xorOver .univ fun k => h (if v.getLsbD (31 - k.val) then basisVector k else 0#32) := by
        simp only [gfApply_eq_xorOver, hrows, apply_ite h, hzero]
    _ = h v := by rw [← map_xorOver _ hxor hzero, xorOver_basisVector]

/-- A matrix is fixed by the map it stands for. -/
theorem bitMatrix32_ext {A B : BitMatrix32} (h : ∀ v, gfApply A v = gfApply B v) : A = B := by
  have hrow (k : Fin 32) : A[k] = B[k] := by
    rw [← gfApply_basisVector, ← gfApply_basisVector, h]
  exact Vector.ext fun k hk => hrow ⟨k, hk⟩

/-! ### Products of matrices and the identity (R173) -/

theorem getElem_gfMul (A B : BitMatrix32) (k : Fin 32) : (gfMul A B)[k] = gfApply A B[k] := by
  simp [gfMul]

theorem getElem_gfIdentity (k : Fin 32) : gfIdentity[k] = basisVector k :=
  getRow_gfIdentity (.ofFin k)

theorem gfApply_gfMul (A B : BitMatrix32) (v : Word) :
    gfApply (gfMul A B) v = gfApply A (gfApply B v) := by
  refine gfApply_of_rows (h := fun v => gfApply A (gfApply B v)) (fun k => ?_) (fun v w => ?_) ?_ v
  · rw [getElem_gfMul, gfApply_basisVector]
  · simp only [gfApply_xor]
  · simp only [gfApply_zero]

theorem gfApply_gfIdentity (v : Word) : gfApply gfIdentity v = v :=
  gfApply_of_rows (h := id) getElem_gfIdentity (fun _ _ => rfl) rfl v

/-- Settles O48: a basis vector picks its row, and the product is linear. -/
theorem applyIsLinearOnBasisRows : Obligations.ApplyIsLinearOnBasisRows :=
  fun M => ⟨gfApply_basisVector M, gfApply_xor M, gfApply_zero M⟩

/-- Settles O49: the rules of the product of matrices and of the identity. -/
theorem matrixProductComposes : Obligations.MatrixProductComposes :=
  fun A B => ⟨getElem_gfMul A B, gfApply_gfMul A B, rfl, getElem_gfIdentity, gfApply_gfIdentity⟩

/-! ### The bit steps and the base operators (R171, R174) -/

theorem fwd1_xor (v w : Word) : fwd1 (v ^^^ w) = fwd1 v ^^^ fwd1 w := by
  unfold fwd1
  rw [BitVec.getLsbD_xor, ite_bne_xor, BitVec.ushiftRight_xor_distrib]
  ac_rfl

theorem inv1_xor (v w : Word) : inv1 (v ^^^ w) = inv1 v ^^^ inv1 w := by
  unfold inv1
  rw [BitVec.getLsbD_xor, ite_bne_xor, BitVec.shiftLeft_xor_distrib]
  ac_rfl

theorem bitStep_xor (dir : Dir) (v w : Word) :
    bitStep dir (v ^^^ w) = bitStep dir v ^^^ bitStep dir w :=
  match dir with
  | .fwd => fwd1_xor v w
  | .inv => inv1_xor v w

theorem bitStep_zero (dir : Dir) : bitStep dir 0#32 = 0#32 := by
  cases dir <;> decide

theorem getElem_gfBase (dir : Dir) (k : Fin 32) : (gfBase dir)[k] = bitStep dir (basisVector k) := by
  simp [gfBase]

theorem gfApply_gfBase (dir : Dir) (v : Word) : gfApply (gfBase dir) v = bitStep dir v :=
  gfApply_of_rows (getElem_gfBase dir) (bitStep_xor dir) (bitStep_zero dir) v

/-! ### Powers of a base operator (R175) -/

/-- `Base(dir)` multiplied by itself `n` times. -/
def gfBaseIter (dir : Dir) (n : Nat) : BitMatrix32 := (gfMul (gfBase dir))^[n] gfIdentity

/-- Applying the n-fold product is `n` bit steps. -/
theorem gfApply_gfBaseIter (dir : Dir) (n : Nat) (v : Word) :
    gfApply (gfBaseIter dir n) v = (bitStep dir)^[n] v := by
  induction n with
  | zero => exact gfApply_gfIdentity v
  | succ n ih =>
    rw [Function.iterate_succ_apply', ← ih, ← gfApply_gfBase, ← gfApply_gfMul, gfBaseIter,
      Function.iterate_succ_apply', gfBaseIter]

/-- The exponents of a product add up. -/
theorem gfMul_gfBaseIter (dir : Dir) (m n : Nat) :
    gfMul (gfBaseIter dir m) (gfBaseIter dir n) = gfBaseIter dir (m + n) :=
  bitMatrix32_ext fun v => by
    simp only [gfApply_gfMul, gfApply_gfBaseIter, Function.iterate_add_apply]

theorem gfBaseIter_one (dir : Dir) : gfBaseIter dir 1 = gfBase dir :=
  bitMatrix32_ext fun v => by
    rw [gfApply_gfBaseIter, gfApply_gfBase, Function.iterate_one]

theorem gfSquare_gfBaseIter (dir : Dir) (n : Nat) :
    gfSquare (gfBaseIter dir n) = gfBaseIter dir (2 * n) := by
  rw [gfSquare, gfMul_gfBaseIter, Nat.two_mul]

/-- The loop of R175 before bit `j`: `acc` is the operator for the bits of `n` below `j`, and `cur` the
operator for `2^j` bits. -/
theorem gfPow_loop (dir : Dir) (n : Word) (j : Nat) :
    (List.range j).foldl
      (fun (p : BitMatrix32 × BitMatrix32) k =>
        (if n.getLsbD k then gfMul p.2 p.1 else p.1, gfSquare p.2))
      (gfIdentity, gfBase dir) = (gfBaseIter dir (n.toNat % 2 ^ j), gfBaseIter dir (2 ^ j)) := by
  induction j with
  | zero =>
    rw [Nat.pow_zero, Nat.mod_one, gfBaseIter_one]
    rfl
  | succ j ih =>
    have hmod : n.toNat % 2 ^ (j + 1) = n.toNat % 2 ^ j + 2 ^ j * (n.getLsbD j).toNat := by
      rw [Nat.mod_pow_succ, BitVec.getLsbD, Nat.toNat_testBit]
    rw [List.range_succ, List.foldl_append, ih, List.foldl_cons, List.foldl_nil, gfMul_gfBaseIter,
      gfSquare_gfBaseIter, ← Nat.pow_succ', hmod]
    cases n.getLsbD j with
    | false => simp
    | true => simp [Nat.add_comm]

theorem gfPow_eq_gfBaseIter (dir : Dir) (n : Word) : gfPow dir n = gfBaseIter dir n.toNat :=
  (congrArg Prod.fst (gfPow_loop dir n 32)).trans (by rw [Nat.mod_eq_of_lt n.isLt])

/-- Settles O51: binary exponentiation by its loop, and the n-fold product by its action. -/
theorem powIsTheIteratedProduct : Obligations.PowIsTheIteratedProduct := by
  intro dir n
  refine ⟨gfPow_eq_gfBaseIter dir n, fun v => ?_⟩
  rw [gfPow_eq_gfBaseIter, gfApply_gfBaseIter]

end Sys2Proof.Machine
end

section
/-!
PROOF. The commands of the GF(2) operator engine (spec/41_gf2_operator.md section 2).
-/

namespace Sys2Proof.Machine

/-! ### Rows by their field (R104, R170) -/

theorem getRow_gfBase (dir : Dir) (k : RowIx) :
    getRow (gfBase dir) k = bitStep dir (1#32 <<< (31 - k.toNat)) :=
  getElem_gfBase dir k.toFin

theorem getRow_gfSquare (M : BitMatrix32) (k : RowIx) :
    getRow (gfSquare M) k = gfApply M (getRow M k) :=
  getElem_gfMul M M k.toFin

/-! ### The rule of a command that writes a matrix register -/

/-- A completion that writes `M` to `m[md]` leaves everything else as it was. -/
theorem wroteM_writeM (s : State) (md : MReg) {M : BitMatrix32} {rows : RowIx → Word}
    (hrows : ∀ k, getRow M k = rows k) : WroteM s (s.writeM md M).finish.retire md rows where
  dest k := (congrArg (getRow · k) (State.readM_writeM_same s md M)).trans (hrows k)
  mats j hj := State.readM_writeM_other s md j M hj
  regs _ := rfl
  table := ⟨fun _ => rfl, rfl, rfl⟩
  control := ⟨rfl, rfl, rfl, rfl, rfl, rfl, rfl⟩

/-- The rule of a command without a check that writes one matrix register, row by row. -/
theorem plainCommand_writeM {i : Instr} {md : MReg} {M : State → BitMatrix32}
    {rows : State → RowIx → Word} (hi : ∀ u, exec i u = command i (fun u => u.writeM md (M u)) u)
    (hc : ∀ u, issueCheck i u = none) (hrows : ∀ s k, getRow (M s) k = rows s k) :
    PlainCommand i (encode i) fun s t => WroteM s t md (rows s) :=
  plainCommand_of_effect hi hc fun s => wroteM_writeM s md (hrows s)

/-! ### The commands -/

/-- Settles O33: both write `m[md]`, with the rows of `Base(dir)` and of `Pow(dir, x[rs1])`. -/
theorem mbaseAndMpowRules : Obligations.MbaseAndMpowRules := by
  intro md rs1 dir
  refine ⟨?mbase, ?mpow⟩
  case mbase =>
    exact plainCommand_writeM (i := .mbase md dir) (fun _ => rfl) (fun _ => rfl)
      fun _ k => getRow_gfBase dir k
  case mpow =>
    exact plainCommand_writeM (i := .mpow md rs1 dir) (fun _ => rfl) (fun _ => rfl) fun _ _ => rfl

/-- Settles O34: `m[md]` takes the square of the old `m[ms]`. -/
theorem msqRule : Obligations.MsqRule :=
  fun md ms => plainCommand_writeM (i := .msq md ms) (fun _ => rfl) (fun _ => rfl)
    fun s k => getRow_gfSquare (s.readM ms) k

/-- The mask and match columns of MROW's row of the opcode map (R110). -/
theorem exists_mrow_row :
    ∃ r ∈ opcodeMap, r.mask = 0xFF0CFFE0#32 ∧ r.pattern = 0x25000000#32 :=
  ⟨_, (Instr.mrow 0#4 0#2 0#5).row_mem, rfl, rfl⟩

/-- A word with the opcode of MROW and a bit set in `[7:5]` does not spell MROW's row, whose mask covers
these bits (R185). -/
theorem decode_mrow_mustBeZero {w : Word} (hop : w.extractLsb' 24 8 = 0x25#8)
    (hbits : w.extractLsb' 5 3 ≠ 0#3) : decode w = .error .mustBeZero := by
  obtain ⟨r, hr, hmask, hpattern⟩ := exists_mrow_row
  refine decode_eq_mustBeZero_iff.mpr ⟨r, hr, ?opcode, fun hspells => hbits ?bits⟩
  case opcode => exact OpcodeRow.sharesOpcode_iff.mpr (hop.trans (by rw [hpattern]; rfl))
  case bits =>
    exact (OpcodeRow.fixed_field hspells (by rw [hmask]; rfl) (by rw [hpattern]; rfl)).symm

/-- Settles O35: both write `x[rd]`; and the must-be-zero bits of MROW's word. -/
theorem mapplyAndMrowRules : Obligations.MapplyAndMrowRules := by
  refine ⟨fun _ => decode_mrow_mustBeZero, fun rd rs2 ms row => ⟨?mapply, ?mrow⟩⟩
  case mapply => exact plainCommand_writeX (i := .mapply rd ms rs2) (fun _ => rfl) fun _ => rfl
  case mrow => exact plainCommand_writeX (i := .mrow rd ms row) (fun _ => rfl) fun _ => rfl

/-- Settles O36: `m[md]` takes its old value with one row replaced. -/
theorem msetRule : Obligations.MsetRule :=
  fun md rs1 row => plainCommand_writeM (i := .mset md rs1 row) (fun _ => rfl) (fun _ => rfl)
    fun s k => getRow_setRow (s.readM md) row k (s.readX rs1)

/-- Settles O37: `x[rd]` takes the padded value. -/
theorem zpadRule : Obligations.ZpadRule :=
  fun rd rs1 rs2 dir => plainCommand_writeX (i := .zpad rd rs1 rs2 dir) (fun _ => rfl) fun _ => rfl

end Sys2Proof.Machine
end

section
/-!
PROOF. The whole rule of a command with one check at issue: what a ready engine does is decided by the
check, and its completion by its effect alone (R80, R81). And the statement of ZCRC
(spec/42_zero_run_oracle.md section 2).
-/

namespace Sys2Proof.Machine

/-! ### The check of a byte length (R320, R321) -/

theorem lengthCheck_of_le {len : Word} (h : len ≤ 0x1FFFFFFF#32) : lengthCheck len = none :=
  if_neg (BitVec.not_lt.mpr h)

theorem lengthCheck_of_not_le {len : Word} (h : ¬ len ≤ 0x1FFFFFFF#32) :
    lengthCheck len = some .lengthDomain :=
  if_pos (BitVec.not_le.mp h)

/-! ### The rule of a command with a check -/

section OneCommand

variable {i : Instr} {f : State → State} {ok : State → Prop} {e : ErrCode}

/-- A ready engine raises the error that a command's check finds. -/
theorem raises_of_check_fails {s : State} (hi : ∀ u, exec i u = command i f u) (hr : s.Ready)
    (hc : issueCheck i s = some e) : Raises i (encode i) e s := by
  obtain ⟨hb, he⟩ := hr
  unfold Raises
  rw [hi, command_idle i f s hb, issue_of_check_fails (decode_encode i) hc,
    State.raise_of_noError s e (encode i) he]
  rfl

/-- The rule of a command whose check decides `ok`, from what its completion leaves. -/
theorem checkedCommand_of_effect {effect : State → State → Prop}
    (hi : ∀ u, exec i u = command i f u) (hpass : ∀ u, ok u → issueCheck i u = none)
    (hfail : ∀ u, ¬ ok u → issueCheck i u = some e)
    (heffect : ∀ s, effect s (f s).finish.retire) : CheckedCommand i (encode i) ok e effect :=
  ⟨spells_encode i, fun s hr hok => accepts_of_check_passes hi hr (hpass s hok),
    fun s hr hok => raises_of_check_fails hi hr (hfail s hok),
    fun s hb _ => ⟨_, exec_inFlight hi hb, heffect s⟩⟩

/-- The rule of a command with a check that writes one general register. -/
theorem checkedCommand_writeX {rd : Reg} {v : State → Word}
    (hi : ∀ u, exec i u = command i (fun u => u.writeX rd (v u)) u)
    (hpass : ∀ u, ok u → issueCheck i u = none)
    (hfail : ∀ u, ¬ ok u → issueCheck i u = some e) :
    CheckedCommand i (encode i) ok e fun s t => WroteX s t rd (v s) :=
  checkedCommand_of_effect hi hpass hfail fun s => wroteX_writeX s rd (v s)

end OneCommand

/-- Settles O38: ZCRC's check is the byte-length check of `x[rs1]`, and its completion writes `x[rd]`. -/
theorem zcrcRule : Obligations.ZcrcRule :=
  fun rd rs1 => checkedCommand_writeX (i := .zcrc rd rs1) (fun _ => rfl)
    (fun _ => lengthCheck_of_le) fun _ => lengthCheck_of_not_le

end Sys2Proof.Machine
end

section
/-!
PROOF. The Combine and Trim functions by their two cases (R230, R231), and the commands COMB and TRIM
(spec/43_combine_trim.md section 2).
-/

namespace Sys2Proof.Machine

/-! ### The functions, by their length or bit count -/

theorem crcCombine_zero (a b : Word) : crcCombine a b 0#32 = a := if_pos rfl

theorem crcCombine_of_ne_zero {L : Word} (h : L ≠ 0#32) (a b : Word) :
    crcCombine a b L = zeroPad a (8#32 * L) .fwd ^^^ b :=
  if_neg h

theorem crcTrim_zero (x y : Word) : crcTrim x y 0#32 = x := if_pos rfl

theorem crcTrim_of_ne_zero {n : Word} (h : n ≠ 0#32) (x y : Word) :
    crcTrim x y n = zeroPad (x ^^^ y) n .inv :=
  if_neg h

/-! ### The commands -/

/-- Settles O39: Combine by its two cases; COMB's check is the byte-length check of `x[rs3]`, and its
completion writes `x[rd]`. -/
theorem combRule : Obligations.CombRule := by
  refine ⟨fun a b L _ => ?function, fun rd rs1 rs2 rs3 => ?command⟩
  case function =>
    split
    next hL => rw [hL, crcCombine_zero]
    next hL => exact crcCombine_of_ne_zero hL a b
  case command =>
    exact checkedCommand_writeX (i := .comb rd rs1 rs2 rs3) (fun _ => rfl)
      (fun _ => lengthCheck_of_le) fun _ => lengthCheck_of_not_le

/-- Settles O40: Trim by its two cases; TRIM has no check, and its completion writes `x[rd]`. -/
theorem trimRule : Obligations.TrimRule := by
  refine ⟨fun x y n => ?function, fun rd rs1 rs2 rs3 => ?command⟩
  case function =>
    split
    next hn => rw [hn, crcTrim_zero]
    next hn => exact crcTrim_of_ne_zero hn x y
  case command => exact plainCommand_writeX (i := .trim rd rs1 rs2 rs3) (fun _ => rfl) fun _ => rfl

end Sys2Proof.Machine
end

section
/-!
PROOF. The commands of the prefix advance table (spec/44_advance_table.md section 2): ADVB builds it; PEEL,
PEELI and ADVR read it, under one check that it has been built.
-/

namespace Sys2Proof.Machine

/-! ### The check that the table has been built (R264, R320) -/

theorem builtCheck_of_valid {advValid : Bool} (h : advValid = true) : builtCheck advValid = none :=
  if_pos h

theorem builtCheck_of_not_valid {advValid : Bool} (h : ¬ advValid = true) :
    builtCheck advValid = some .advNotBuilt :=
  if_neg h

/-! ### The command that builds the table -/

/-- A completion that builds the table for `S` leaves everything else as it was. -/
theorem wroteTable_buildAdv (s : State) (S : Word) : WroteTable s (s.buildAdv S).finish.retire S where
  entries b := (State.readAdv_congr _ _ (by simp) b).trans (State.readAdv_buildAdv s S b)
  advs := by simp
  advValid := by simp
  regs := State.readX_congr _ _ (by simp)
  mats := State.readM_congr _ _ (by simp)
  control := by constructor <;> simp

/-- Settles O41: ADVB's check is the byte-length check of `x[rs1]`, and its completion builds the table
for `x[rs1]`. -/
theorem advbRule : Obligations.AdvbRule :=
  fun rs1 => checkedCommand_of_effect (i := .advb rs1) (fun _ => rfl)
    (fun _ => lengthCheck_of_le) (fun _ => lengthCheck_of_not_le)
    fun s => wroteTable_buildAdv s (s.readX rs1)

/-! ### The commands that read the table -/

/-- The rule of a command that needs the table and writes one general register. -/
theorem checkedCommand_writeX_of_built {i : Instr} {rd : Reg} {v : State → Word}
    (hi : ∀ u, exec i u = command i (fun u => u.writeX rd (v u)) u)
    (hc : ∀ u, issueCheck i u = builtCheck u.advValid) :
    CheckedCommand i (encode i) (fun s => s.advValid = true) .advNotBuilt
      fun s t => WroteX s t rd (v s) :=
  checkedCommand_writeX hi (fun u h => (hc u).trans (builtCheck_of_valid h))
    fun u h => (hc u).trans (builtCheck_of_not_valid h)

/-- Settles O42: both need the table and write `x[rd]`, with one peel step by the low byte of `x[rs2]` or
by the immediate. -/
theorem peelAndPeeliRules : Obligations.PeelAndPeeliRules := by
  intro rd rs1 rs2 byte
  refine ⟨?peel, ?peeli⟩
  case peel =>
    exact checkedCommand_writeX_of_built (i := .peel rd rs1 rs2) (fun _ => rfl) fun _ => rfl
  case peeli =>
    exact checkedCommand_writeX_of_built (i := .peeli rd rs1 byte) (fun _ => rfl) fun _ => rfl

/-- Settles O43: ADVR needs the table, and its completion writes the entry at the low byte of `x[rs1]` to
`x[rd]`. -/
theorem advrRule : Obligations.AdvrRule :=
  fun rd rs1 => checkedCommand_writeX_of_built (i := .advr rd rs1) (fun _ => rfl) fun _ => rfl

end Sys2Proof.Machine
end

section
/-!
PROOF. The register and check commands NOP, LIL, LIH, XOR, FIN and CHKLEN (spec/45_glue.md).
-/

namespace Sys2Proof.Machine

/-! ### Words with a must-be-zero bit set (R111) -/

/-- A word with a row's opcode that differs from the row's pattern in a field that the mask covers is
illegal. -/
theorem decode_mustBeZero_of_field {r : OpcodeRow} (hr : r ∈ opcodeMap) {w : Word} {st n : Nat}
    (hop : w.extractLsb' 24 8 = r.pattern.extractLsb' 24 8)
    (hmask : r.mask.extractLsb' st n = BitVec.allOnes n)
    (hne : w.extractLsb' st n ≠ r.pattern.extractLsb' st n) : decode w = .error .mustBeZero :=
  decode_eq_mustBeZero_iff.mpr ⟨r, hr, OpcodeRow.sharesOpcode_iff.mpr hop,
    fun hspells => hne (OpcodeRow.fixed_field hspells hmask rfl).symm⟩

/-- NOP's mask covers the whole word (R290). -/
theorem decode_nop_mustBeZero {w : Word} (hop : w.extractLsb' 24 8 = 0x00#8)
    (hne : w ≠ 0x00000000#32) : decode w = .error .mustBeZero := by
  refine decode_mustBeZero_of_field Instr.nop.row_mem (st := 0) (n := 32) hop rfl fun h => hne ?_
  rwa [BitVec.extractLsb'_eq_self] at h

/-- LIL's mask covers bits `[19:16]` (R291). -/
theorem decode_lil_mustBeZero {w : Word} (hop : w.extractLsb' 24 8 = 0x01#8)
    (hbits : w.extractLsb' 16 4 ≠ 0#4) : decode w = .error .mustBeZero :=
  decode_mustBeZero_of_field (Instr.lil 0#4 0#16).row_mem hop rfl hbits

/-! ### The halves of a word (R291, R292) -/

theorem zextImm16_eq_append (imm16 : BitVec 16) : zextImm16 imm16 = 0#16 ++ imm16 :=
  BitVec.setWidth_eq_append (by decide)

theorem shiftLeft_zextImm16_or_lowHalf (imm16 : BitVec 16) (v : Word) :
    (zextImm16 imm16 <<< 16) ||| lowHalf v = imm16 ++ v.extractLsb' 0 16 := by
  rw [BitVec.append_def, BitVec.shiftLeftZeroExtend_eq, BitVec.setWidth'_eq, zextImm16, lowHalf]

/-! ### The checks of a length pair (R295, R323) -/

theorem prefixCheck_of_le {p S : Word} (h : S ≤ p) : prefixCheck p S = some .invalidInput :=
  if_pos h

theorem prefixCheck_of_lt {p S : Word} (h : p < S) : prefixCheck p S = lengthCheck S :=
  if_neg (BitVec.not_le.mpr h)

/-! ### The commands -/

/-- A completion without an effect leaves everything but BUSY as it was. -/
theorem wroteNothing_finish_retire (s : State) : WroteNothing s s.finish.retire where
  regs _ := rfl
  mats _ := rfl
  table := ⟨fun _ => rfl, rfl, rfl⟩
  control := ⟨rfl, rfl, rfl, rfl, rfl, rfl, rfl⟩

/-- Settles O28: NOP is a plain command without an effect; step 2 of R80 drops it; and the must-be-zero
bits of its word. -/
theorem nopRule : Obligations.NopRule := by
  refine ⟨?command, fun s rest hb he h => ?dropped, fun _ => decode_nop_mustBeZero⟩
  case command =>
    exact plainCommand_of_effect (i := .nop) (fun _ => rfl) (fun _ => rfl) wroteNothing_finish_retire
  case dropped => rw [step_cmdWrite_error h hb he, State.retire_of_schedule s h]

/-- Settles O29: both write `x[rd]`, and their values are words put together of two halves; and the
must-be-zero bits of LIL's word. -/
theorem lilAndLihRules : Obligations.LilAndLihRules := by
  refine ⟨fun _ => decode_lil_mustBeZero, fun rd imm16 => ⟨?lil, ?lih⟩⟩
  case lil =>
    rw [← zextImm16_eq_append]
    exact plainCommand_writeX (i := .lil rd imm16) (fun _ => rfl) fun _ => rfl
  case lih =>
    simp only [← shiftLeft_zextImm16_or_lowHalf]
    exact plainCommand_writeX (i := .lih rd imm16) (fun _ => rfl) fun _ => rfl

/-- Settles O30: both write `x[rd]`, with a value computed from the state before. -/
theorem xorAndFinRules : Obligations.XorAndFinRules := by
  intro rd rs1 rs2
  refine ⟨?xor, ?fin⟩
  case xor => exact plainCommand_writeX (i := .xor rd rs1 rs2) (fun _ => rfl) fun _ => rfl
  case fin => exact plainCommand_writeX (i := .fin rd rs1) (fun _ => rfl) fun _ => rfl

/-- Settles O31: CHKLEN's check by the order of the two lengths and then by the second, and its completion
without an effect. -/
theorem chklenRule : Obligations.ChklenRule := by
  intro rs1 rs2
  have hi : ∀ u, exec (.chklen rs1 rs2) u = command (.chklen rs1 rs2) (fun s => s) u := fun _ => rfl
  refine ⟨spells_encode (.chklen rs1 rs2), fun s hr hle => ?invalidInput,
    fun s hr hlt hmax => ?lengthDomain, fun s hr hlt hmax => ?accepted, fun s hb _ _ => ?completes⟩
  case invalidInput => exact raises_of_check_fails hi hr (prefixCheck_of_le hle)
  case lengthDomain =>
    exact raises_of_check_fails hi hr
      ((prefixCheck_of_lt hlt).trans (lengthCheck_of_not_le (BitVec.not_le.mpr hmax)))
  case accepted =>
    exact accepts_of_check_passes hi hr ((prefixCheck_of_lt hlt).trans (lengthCheck_of_le hmax))
  case completes => exact ⟨_, exec_inFlight hi hb, wroteNothing_finish_retire s⟩

end Sys2Proof.Machine
end

section
/-!
PROOF. The errors of the command port: which error each command can raise of its own at issue, and the
write that a command in flight turns away (spec/60_exceptions.md section 2).
-/

namespace Sys2Proof.Machine

/-! ### Each command's own check (R322, R323) -/

/-- Settles O8: `issueCheck` command by command. Each list's claim is that the checks of its commands, read
off in order, are one check repeated: none, the byte-length check, or the check that the table is built. -/
theorem ownChecksOfEachCommand : Obligations.OwnChecksOfEachCommand := by
  intro s rd rs1 rs2 rs3 md ms dir row byte imm16
  refine ⟨?unchecked, ?chklen, ?zcrcAndAdvb, ?comb, ?needTheTable⟩
  case unchecked => exact List.map_eq_replicate_iff.mp rfl
  case chklen =>
    show prefixCheck (s.readX rs1) (s.readX rs2) = _
    split
    next hle => exact prefixCheck_of_le hle
    next hlt => exact prefixCheck_of_lt (BitVec.not_le.mp hlt)
  case zcrcAndAdvb =>
    have hlength : [Instr.zcrc rd rs1, .advb rs1].map (issueCheck · s) =
        List.replicate 2 (lengthCheck (s.readX rs1)) := rfl
    exact List.map_eq_replicate_iff.mp hlength
  case comb => rfl
  case needTheTable =>
    have hbuilt : [Instr.peel rd rs1 rs2, .peeli rd rs1 byte, .advr rd rs1].map (issueCheck · s) =
        List.replicate 3 (builtCheck s.advValid) := rfl
    exact List.map_eq_replicate_iff.mp hbuilt

/-! ### A write that meets a command in flight (R324) -/

section BusyWrite

variable {s : State} {r : Reg} {v : Word} {rest : List Event}

theorem hostWrite_x_of_busy (r : Reg) (v : Word) (h : s.busy = true) :
    hostWrite (0#4 ++ r) v s = .settle (s.raise .overrun 0#32).retire := by
  simp [hostWrite, portReg_x, h]

/-- A write to a general register is discarded and raises OVERRUN with no command word. -/
theorem step_xWrite_busy (h : s.schedule = .write (0#4 ++ r) v :: rest) (hb : s.busy = true) :
    step s = .next (s.raise .overrun 0#32).retire :=
  step_write_of_settle h (hostWrite_x_of_busy r v hb)

/-- A raise in a state with an error, the event that caused it retired: the first error stays. -/
theorem retire_raise_of_error {ev : Event} (h : s.schedule = ev :: rest) (he : s.err ≠ .noError)
    (e : ErrCode) (w : Word) : (s.raise e w).retire = { s with schedule := rest } := by
  rw [State.raise_of_error s e w he, State.retire_of_schedule s h]

end BusyWrite

/-- Settles O15: either write does no more than raise OVERRUN, and a raise records an error only where
there is none. -/
theorem overrunDiscardsTheWrite : Obligations.OverrunDiscardsTheWrite := by
  intro s r v rest hb
  refine ⟨fun he h => ?cmd, fun he h => ?register, fun he h => ?firstErrorStays⟩
  case cmd => rw [step_cmdWrite_busy h hb, retire_raise_of_noError h he]
  case register => rw [step_xWrite_busy h hb, retire_raise_of_noError h he]
  case firstErrorStays =>
    rcases h with hcmd | hregister
    · rw [step_cmdWrite_busy hcmd hb, retire_raise_of_error hcmd he]
    · rw [step_xWrite_busy hregister hb, retire_raise_of_error hregister he]

end Sys2Proof.Machine
end

section
/-!
PROOF. Reset (R360): the reset table holds for whatever `State.powerOn` gives, and both the machine's first
state and the state after a reset event are of that form.
-/

namespace Sys2Proof.Machine

open Sys2Proof.Statements

/-! ### The cleared files of registers -/

theorem State.readX_reset (r : Reg) : State.reset.readX r = 0#32 :=
  Vector.getElem_replicate r.isLt

theorem State.readM_reset (j : MReg) : State.reset.readM j = Vector.replicate 32 0#32 :=
  Vector.getElem_replicate j.isLt

theorem getRow_replicate (v : Word) (k : RowIx) : getRow (Vector.replicate 32 v) k = v :=
  Vector.getElem_replicate k.isLt

/-! ### The reset table, and the two places where it holds -/

/-- Of the state before it, `powerOn` keeps only what belongs to the environment, so the table holds
whatever that state was. -/
theorem resetValues_powerOn (s : State) : ResetValues s.powerOn where
  regs r := State.readX_reset r
  mats j k := (congrArg (getRow · k) (State.readM_reset j)).trans (getRow_replicate 0#32 k)
  busy := s.powerOn_busy
  advValid := s.powerOn_advValid
  err := s.powerOn_err
  status := by
    have hfields : s.powerOn.status = State.reset.status := by simp [State.status]
    exact hfields.trans (by decide)
  errcmd := s.powerOn_errcmd
  advs := s.powerOn_advs

theorem State.powerOn_reset : State.reset.powerOn = State.reset := rfl

/-- A reset event is never refused, also with a command in flight: it is retired, and the engine is as
after power-on. -/
theorem step_reset {s : State} {rest : List Event} (h : s.schedule = .reset :: rest) :
    step s = .next { s with schedule := rest }.powerOn := by
  rw [step_of_settle s _ (nextAction_reset s rest h), State.retire_of_schedule s.powerOn h]
  rfl

/-- Settles O19: both states are given by `powerOn`, the first one as its fixed point. -/
theorem resetLeavesTheTabledValues : Obligations.ResetLeavesTheTabledValues := by
  refine ⟨?firstState, rfl, rfl, fun s rest h => ?afterEvent⟩
  case firstState => exact State.powerOn_reset ▸ resetValues_powerOn State.reset
  case afterEvent => exact ⟨_, step_reset h, resetValues_powerOn _, State.powerOn_schedule _⟩

end Sys2Proof.Machine
end

section
/-!
PROOF. The statements about the decoder and the encoder (spec/30_encoding.md): each is the sum of what one
row of the opcode map says (R110).
-/

namespace Sys2Proof.Machine

/-- Settles O1: the command's own row reads the command back from its word. -/
theorem decodeOfEncodeIsTheCommand : Obligations.DecodeOfEncodeIsTheCommand := decode_encode

/-- Settles O2: the encoder writes back every field of the row that the word spells. -/
theorem encodeOfDecodeIsTheWord : Obligations.EncodeOfDecodeIsTheWord := fun _ _ => encode_of_decode

/-- A list without duplicates whose members are all equal has at most one. -/
theorem length_le_one_of_forall_eq {α : Type} {l : List α} (hl : l.Nodup)
    (heq : ∀ a ∈ l, ∀ b ∈ l, a = b) : l.length ≤ 1 := by
  match l, hl, heq with
  | [], _, _ => exact Nat.zero_le 1
  | [_], _, _ => exact Nat.le_refl 1
  | a :: b :: l, hl, heq =>
    have hab : a = b := heq a (by simp) b (by simp)
    simp [hab] at hl

theorem nodup_opcodeMap : opcodeMap.Nodup :=
  List.Nodup.of_map OpcodeRow.pattern (by decide)

/-- Settles O3: two rows that one word spells are one row, and the map lists no row twice. -/
theorem atMostOneRowMatches : Obligations.AtMostOneRowMatches := by
  refine ⟨fun w => ?oneRow, maskAndMatch_eq_opcodeMap.symm⟩
  refine length_le_one_of_forall_eq (nodup_opcodeMap.filter _) fun r hr q hq => ?_
  obtain ⟨hr, hrw⟩ := List.mem_filter.mp hr
  obtain ⟨hq, hqw⟩ := List.mem_filter.mp hq
  exact OpcodeRow.eq_of_spells hr hq hrw hqw

/-- Settles O5: each legal word is the encoding of its command; the one illegal word has the opcode of MSQ
and a bit set that MSQ's mask covers, and the other has an opcode of no row. -/
theorem sampleWordsDecode : Obligations.SampleWordsDecode := by
  refine ⟨decode_encode (.lih 1#4 0xDE57#16), decode_encode (.upd 3#4 1#4 2#4),
    decode_encode (.mrow 5#4 1#2 31#5), decode_encode (.zpad 3#4 1#4 2#4 .inv),
    decode_encode (.zcrc 5#4 1#4), decode_encode (.comb 4#4 1#4 2#4 3#4),
    decode_encode (.peeli 4#4 4#4 0x48#8), ?mustBeZero, ?unassigned⟩
  case mustBeZero =>
    exact decode_mustBeZero_of_field (st := 22) (n := 2) (Instr.msq 0#2 0#2).row_mem rfl rfl (by decide)
  case unassigned => exact decode_eq_unassignedOpcode_iff.mpr (by decide)

end Sys2Proof.Machine
end

section
/-!
PROOF. One step of a command's life: the engine's turn with a command in flight, the two steps from its
issue to its completion, and the read that meets it (spec/20_memory.md).
-/

namespace Sys2Proof.Machine

/-! ### The engine's turn (R30, R81) -/

/-- With a command in flight the engine's turn runs it. -/
theorem step_turn_inFlight {s : State} {i : Instr} (he : s.EngineTurn) (hb : s.busy = true)
    (hd : decode s.pend = .ok i) : step s = exec i s :=
  step_of_run s i ((nextAction_turn s he).trans (by simp [engineTurn, hb, hd]))

/-- No effect of a command changes ERR, ERRCMD or the schedule. -/
theorem EffectKind.keeps_control {i : Instr} {s u : State} (h : EffectKind i s u) :
    u.err = s.err ∧ u.errcmd = s.errcmd ∧ u.schedule = s.schedule := by
  rcases h with rfl | ⟨rd, v, rfl⟩ | ⟨md, M, rfl⟩ | ⟨rs1, _, rfl⟩ <;> simp

/-- A completion clears BUSY, retires the turn and raises nothing. -/
theorem exec_inFlight_control {s : State} (i : Instr) (hb : s.busy = true) :
    ∃ t, exec i s = .next t ∧ t.busy = false ∧ t.err = s.err ∧ t.errcmd = s.errcmd ∧
      t.schedule = s.schedule.tail := by
  rcases exec_cases i s with ⟨hidle, _⟩ | ⟨_, u, hu, hx⟩
  · simp [hb] at hidle
  · obtain ⟨herr, herrcmd, hschedule⟩ := hu.keeps_control
    exact ⟨_, hx, rfl, herr, herrcmd, congrArg List.tail hschedule⟩

/-! ### The life of a command (R80, R81) -/

/-- Settles O6: the write of a legal word to CMD of a ready engine, and the engine's turn, both run the
command. -/
theorem stepRunsTheDecodedCommand : Obligations.StepRunsTheDecodedCommand := by
  refine ⟨fun s w i rest ⟨hb, he⟩ h hd => ?issue, fun s i he hb hd => step_turn_inFlight he hb hd⟩
  exact step_of_run s i ((nextAction_cmdWrite h).trans (by simp [issueWord, hb, he, hd]))

/-- Settles O9: the engine's turn runs the command in flight, and a completion raises nothing. -/
theorem completionClearsBusyAndRaisesNothing : Obligations.CompletionClearsBusyAndRaisesNothing := by
  intro s i he hb hd
  obtain ⟨t, hx, hbusy, herr, herrcmd, -⟩ := exec_inFlight_control i hb
  exact ⟨t, (step_turn_inFlight he hb hd).trans hx, hx, hbusy, herr, herrcmd⟩

/-- Settles O10: the first step accepts the word, and the accepted state is one of the engine's turn with
the command in flight. -/
theorem commandRunsInTwoSteps : Obligations.CommandRunsInTwoSteps := by
  intro s w i rest hr h hd hc
  have hs₁ : (s.accept w).retire.schedule = .engine :: rest := congrArg List.tail h
  have hrun := step_turn_inFlight (s := (s.accept w).retire) (.inr ⟨rest, hs₁⟩) rfl hd
  obtain ⟨t, hx, hbusy, herr, -, hschedule⟩ :=
    exec_inFlight_control (s := (s.accept w).retire) i rfl
  refine ⟨(s.accept w).retire, t, ?accepted, rfl, rfl, rfl, hrun.trans hx, hx, hbusy,
    herr.trans hr.2, ?schedule⟩
  case accepted => rw [step_cmdWrite_legal h hr hd, issue_of_check_passes hd hc]
  case schedule => rw [hschedule, hs₁, List.tail_cons]

/-! ### A read that meets a command in flight (R76) -/

/-- A read answered with a free value changes what the host sees, draws one value and retires the read. -/
theorem step_read_of_busy {s : State} {a : HostAddr} {v : Word} {rest : List Event}
    (hb : s.busy = true) (h : s.schedule = .read a :: rest) (ha : hostRead a s = s.answerIfIdle v) :
    step s =
      .next { s with rdata := Config.busyRead s.draws, draws := s.draws + 1, schedule := rest } := by
  rw [step_read h, ha, State.answerIfIdle, if_pos hb]
  simp [State.retire, h]

theorem exists_portReg_x : ∀ a : HostAddr, a < 0x10#8 → ∃ r, portReg a = .x r :=
  fun a h => ⟨a.setWidth 4, if_pos h⟩

/-- Settles O16: each of these addresses answers with a register, or, while the engine is busy, with a
free value in its place. -/
theorem busyReadReturnsAFreeValue : Obligations.BusyReadReturnsAFreeValue := by
  intro s a rest hb ha h
  rcases ha with hx | rfl | rfl
  · obtain ⟨r, hr⟩ := exists_portReg_x a hx
    obtain rfl := portReg_eq_x a r hr
    exact step_read_of_busy hb h (hostRead_x r s)
  · exact step_read_of_busy hb h (hostRead_errcmd s)
  · exact step_read_of_busy hb h (hostRead_advs s)

end Sys2Proof.Machine
end

section
/-!
PROOF. The error of STATUS along a step: which steps raise one, and that the first one stays
(spec/60_exceptions.md).
-/

namespace Sys2Proof.Machine

/-! ### What a check and a raise can report -/

/-- A command's own check reports one of three errors (R322). -/
theorem issueCheck_cases {i : Instr} {s : State} {e : ErrCode} (h : issueCheck i s = some e) :
    e = .invalidInput ∨ e = .lengthDomain ∨ e = .advNotBuilt := by
  have hlength {len : Word} (h : lengthCheck len = some e) : e = .lengthDomain := by
    unfold lengthCheck at h
    split at h <;> simp_all
  have hbuilt {valid : Bool} (h : builtCheck valid = some e) : e = .advNotBuilt := by
    unfold builtCheck at h
    split at h <;> simp_all
  cases i
  case chklen =>
    simp only [issueCheck, prefixCheck] at h
    split at h
    · exact .inl (by simpa using h.symm)
    · exact .inr (.inl (hlength h))
  case zcrc => exact .inr (.inl (hlength h))
  case comb => exact .inr (.inl (hlength h))
  case advb => exact .inr (.inl (hlength h))
  case peel => exact .inr (.inr (hbuilt h))
  case peeli => exact .inr (.inr (hbuilt h))
  case advr => exact .inr (.inr (hbuilt h))
  all_goals cases h

theorem issueCheck_ne_noError {i : Instr} {s : State} {e : ErrCode} (h : issueCheck i s = some e) :
    e ≠ .noError := by
  rcases issueCheck_cases h with rfl | rfl | rfl <;> decide

theorem issueCheck_ne_overrun {i : Instr} {s : State} {e : ErrCode} (h : issueCheck i s = some e) :
    e ≠ .overrun := by
  rcases issueCheck_cases h with rfl | rfl | rfl <;> decide

theorem generalRegister_ne_cmd : ∀ r : Reg, 0#4 ++ r ≠ 0x10#8 := by decide

/-! ### The steps that raise (R326) -/

/-- How a step changes ERR: it raises an error at a host write to a state without one, and then the error
and the word it records are the whole change; or it clears the error at a write to STATUS; or it is a
reset; or it keeps ERR and ERRCMD. -/
inductive ErrChange (s t : State) : Prop where
  | raised (a : HostAddr) (v : Word) (rest : List Event) (e : ErrCode)
      (hs : s.schedule = .write a v :: rest) (he : s.err = .noError)
      (hcmd : e ≠ .overrun → a = 0x10#8 ∧ s.busy = false) (hover : e = .overrun → s.busy = true)
      (ht : t = { s with err := e, errcmd := if a = 0x10#8 then v else 0#32, schedule := rest })
  | cleared (v : Word) (rest : List Event) (hs : s.schedule = .write 0x11#8 v :: rest)
      (he : t.err = .noError) (hw : t.errcmd = 0#32)
  | reset (rest : List Event) (hs : s.schedule = .reset :: rest) (he : t.err = .noError)
  | kept (he : t.err = s.err) (hw : t.errcmd = s.errcmd)

/-- A host write that raises, in a state with an error or without one. -/
theorem ErrChange.of_raise {s : State} {a : HostAddr} {v w : Word} {rest : List Event} {e : ErrCode}
    (hs : s.schedule = .write a v :: rest) (hw : w = if a = 0x10#8 then v else 0#32)
    (hcmd : e ≠ .overrun → a = 0x10#8 ∧ s.busy = false) (hover : e = .overrun → s.busy = true) :
    ErrChange s (s.raise e w).retire := by
  by_cases he : s.err = .noError
  · exact .raised a v rest e hs he hcmd hover (hw ▸ retire_raise_of_noError hs he e w)
  · rw [retire_raise_of_error hs he]
    exact .kept rfl rfl

theorem step_errChange {s t : State} (h : step s = .next t) : ErrChange s t := by
  cases step_cases s t h with
  | read a rest u hs hu ht =>
    subst ht
    rcases hu with ⟨v, rfl⟩ | ⟨v, rfl⟩ <;> exact .kept (by simp) (by simp)
  | writeX r v rest hs hb ht => exact ht ▸ .kept rfl rfl
  | overrunX r v rest hs hb ht =>
    exact ht ▸ .of_raise hs (if_neg (generalRegister_ne_cmd r)).symm (absurd rfl) fun _ => hb
  | overrunCmd w rest hs hb ht =>
    exact ht ▸ .of_raise hs (if_pos rfl).symm (absurd rfl) fun _ => hb
  | illegal w rest hs hr hd ht =>
    exact ht ▸ .of_raise hs (if_pos rfl).symm (fun _ => ⟨rfl, hr.1⟩) nofun
  | checkFails w rest i e hs hr hd hc ht =>
    rw [encode_of_decode hd] at ht
    exact ht ▸ .of_raise hs (if_pos rfl).symm (fun _ => ⟨rfl, hr.1⟩)
      fun hover => absurd hover (issueCheck_ne_overrun hc)
  | accept w rest i hs hr hd hc ht => exact ht ▸ .kept rfl rfl
  | clear v rest hs ht => exact ht ▸ .cleared v rest hs rfl rfl
  | complete i u he hb hd hx hk ht =>
    obtain ⟨herr, herrcmd, -⟩ := hk.keeps_control
    exact ht ▸ .kept herr herrcmd
  | reset rest hs ht => exact ht ▸ .reset rest hs rfl
  | idle hi hn ht => exact ht ▸ .kept rfl rfl

/-- Settles O17: a raise needs a state without an error, so nothing but a clearing write and reset is left
to change one. -/
theorem firstErrorIsSticky : Obligations.FirstErrorIsSticky := by
  intro s t hne h
  cases step_errChange h with
  | raised a v rest e hs he hcmd hover ht => exact absurd he hne
  | cleared v rest hs he hw => exact .inr (.inl ⟨v, rest, hs, he, hw⟩)
  | reset rest hs he => exact .inr (.inr ⟨rest, hs⟩)
  | kept he hw => exact .inl ⟨he, hw⟩

/-- Settles O18: of the steps that change ERR only the raising ones leave an error. -/
theorem raisingChangesOnlyErrAndErrcmd : Obligations.RaisingChangesOnlyErrAndErrcmd := by
  intro s t h hchanged herror
  cases step_errChange h with
  | raised a v rest e hs he hcmd hover ht =>
    subst ht
    exact ⟨a, v, rest, hs, he, rfl, hcmd, hover, rfl⟩
  | cleared v rest hs he hw => exact absurd he herror
  | reset rest hs he => exact absurd he herror
  | kept he hw => exact absurd he hchanged

end Sys2Proof.Machine
end

section
/-!
PROOF. The engine's invariant: what it rests on, that every step keeps it, and that a state that meets it
never stops the machine (spec/20_memory.md section 5, spec/60_exceptions.md section 3).
-/

namespace Sys2Proof.Machine

/-! ### What the invariant rests on -/

/-- A command's check looks at the general registers and at ADV_VALID alone (R322). -/
theorem issueCheck_congr {s t : State} (i : Instr) (hx : t.x = s.x) (hvalid : t.advValid = s.advValid) :
    issueCheck i t = issueCheck i s := by
  have hread : ∀ r, t.readX r = s.readX r := State.readX_congr s t hx
  cases i <;> simp only [issueCheck, hread, hvalid]

/-- The command in flight is a command whose check holds. -/
def State.FlightChecked (s : State) : Prop :=
  s.busy = true → ∃ i, decode s.pend = .ok i ∧ issueCheck i s = none

theorem State.Inv.flightChecked {s : State} (h : s.Inv) : s.FlightChecked := h.flight_checked

theorem State.flightChecked_of_idle {s : State} (h : s.busy = false) : s.FlightChecked := by
  simp [State.FlightChecked, h]

/-- Of a command in flight nothing changed that its check looks at. -/
theorem State.FlightChecked.congr {s t : State} (h : s.FlightChecked) (hbusy : t.busy = s.busy)
    (hpend : t.pend = s.pend) (hx : t.x = s.x) (hvalid : t.advValid = s.advValid) :
    t.FlightChecked := by
  intro hb
  obtain ⟨i, hd, hc⟩ := h (hbusy ▸ hb)
  exact ⟨i, hpend ▸ hd, (issueCheck_congr i hx hvalid).trans hc⟩

/-- A step that leaves the advance table alone keeps the invariant if ERRCMD and the command in flight
are again as it asks. -/
theorem State.Inv.of_table_kept {s t : State} (h : s.Inv) (hadv : t.adv = s.adv)
    (hadvs : t.advs = s.advs) (hvalid : t.advValid = s.advValid)
    (herr : t.err = .noError → t.errcmd = 0#32) (hflight : t.FlightChecked) : t.Inv where
  errcmd_clear := herr
  flight_checked := hflight
  advs_clear hv := hadvs.trans (h.advs_clear (hvalid ▸ hv))
  table_built hv := by
    obtain ⟨hle, htable⟩ := h.table_built (hvalid ▸ hv)
    rw [hadvs]
    exact ⟨hle, fun b => (State.readAdv_congr s t hadv b).trans (htable b)⟩

/-- The invariant does not look at what belongs to the environment. -/
theorem State.Inv.of_engine_kept {s t : State} (h : s.Inv) (hadv : t.adv = s.adv)
    (hadvs : t.advs = s.advs) (hvalid : t.advValid = s.advValid) (herr : t.err = s.err)
    (herrcmd : t.errcmd = s.errcmd) (hbusy : t.busy = s.busy) (hpend : t.pend = s.pend)
    (hx : t.x = s.x) : t.Inv :=
  h.of_table_kept hadv hadvs hvalid (fun he => herrcmd.trans (h.errcmd_clear (herr ▸ he)))
    (h.flightChecked.congr hbusy hpend hx hvalid)

/-- A raise leaves an error: its own, or the one that was there. -/
theorem State.raise_err_ne_noError {s : State} {e : ErrCode} (he : e ≠ .noError) (w : Word) :
    (s.raise e w).err ≠ .noError := by
  rw [State.raise_err]
  split <;> assumption

/-! ### The steps, kind by kind -/

section Steps

variable {s : State}

theorem State.Inv.raise (h : s.Inv) {e : ErrCode} (he : e ≠ .noError) (w : Word) :
    (s.raise e w).retire.Inv :=
  h.of_table_kept (by simp) (by simp) (by simp)
    (fun hclear => absurd hclear (State.raise_err_ne_noError he w))
    (h.flightChecked.congr (by simp) (by simp) (by simp) (by simp))

theorem State.Inv.writeX (h : s.Inv) (hb : s.busy = false) (r : Reg) (v : Word) :
    (s.writeX r v).retire.Inv :=
  h.of_table_kept rfl rfl rfl h.errcmd_clear (State.flightChecked_of_idle hb)

/-- The word accepted spells the command whose check was made. -/
theorem State.Inv.accept (h : s.Inv) {i : Instr} (hc : issueCheck i s = none) :
    (s.accept (encode i)).retire.Inv :=
  h.of_table_kept rfl rfl rfl h.errcmd_clear fun _ =>
    ⟨i, decode_encode i, (issueCheck_congr (s := s) i rfl rfl).trans hc⟩

/-- The size that ADVB builds the table for was checked at its issue (R263). -/
theorem State.Inv.buildAdv (h : s.Inv) {S : Word} (hS : S ≤ Config.maxLen) :
    (s.buildAdv S).finish.retire.Inv where
  errcmd_clear := by simpa using h.errcmd_clear
  flight_checked := by simp
  advs_clear := by simp
  table_built _ := by
    obtain ⟨hentries, hadvs, -⟩ := wroteTable_buildAdv s S
    rw [hadvs]
    exact ⟨hS, hentries⟩

theorem le_maxLen_of_lengthCheck {len : Word} (h : lengthCheck len = none) : len ≤ Config.maxLen :=
  BitVec.not_lt.mp fun hlt => by simp [lengthCheck, hlt] at h

/-- A completion, whatever its command's effect. -/
theorem State.Inv.complete (h : s.Inv) (hb : s.busy = true) {i : Instr} (hd : decode s.pend = .ok i)
    {u : State} (hu : EffectKind i s u) : u.finish.retire.Inv := by
  rcases hu with rfl | ⟨rd, v, rfl⟩ | ⟨md, M, rfl⟩ | ⟨rs1, rfl, rfl⟩
  · exact h.of_table_kept rfl rfl rfl h.errcmd_clear (State.flightChecked_of_idle rfl)
  · exact h.of_table_kept rfl rfl rfl h.errcmd_clear (State.flightChecked_of_idle rfl)
  · exact h.of_table_kept rfl rfl rfl h.errcmd_clear (State.flightChecked_of_idle rfl)
  · obtain ⟨j, hj, hc⟩ := h.flight_checked hb
    obtain rfl : Instr.advb rs1 = j := by simpa [hd] using hj
    exact h.buildAdv (le_maxLen_of_lengthCheck hc)

/-- After reset nothing is in flight, no table is built and no error is recorded. -/
theorem State.inv_powerOn (s : State) : s.powerOn.Inv where
  errcmd_clear _ := rfl
  flight_checked := State.flightChecked_of_idle rfl
  advs_clear _ := rfl
  table_built := nofun

end Steps

/-! ### The invariant along steps and runs -/

/-- Settles O20: the state after reset is the one that `powerOn` gives. -/
theorem resetMeetsTheInvariant : Obligations.ResetMeetsTheInvariant := State.inv_powerOn State.reset

/-- Settles O21: by the kinds of step. Only an acceptance puts a command in flight, and only ADVB writes
the table; a raise leaves an error, and every other step leaves what the invariant speaks of. -/
theorem everyStepKeepsTheInvariant : Obligations.EveryStepKeepsTheInvariant := by
  intro s t h hstep
  cases step_cases s t hstep with
  | read a rest u hs hu ht =>
    subst ht
    rcases hu with ⟨v, rfl⟩ | ⟨v, rfl⟩ <;> apply h.of_engine_kept <;> simp
  | writeX r v rest hs hb ht => exact ht ▸ h.writeX hb r v
  | overrunX r v rest hs hb ht => exact ht ▸ h.raise (by decide) 0#32
  | overrunCmd w rest hs hb ht => exact ht ▸ h.raise (by decide) w
  | illegal w rest hs hr hd ht => exact ht ▸ h.raise (by decide) w
  | checkFails w rest i e hs hr hd hc ht => exact ht ▸ h.raise (issueCheck_ne_noError hc) (encode i)
  | accept w rest i hs hr hd hc ht => exact ht ▸ h.accept hc
  | clear v rest hs ht =>
    exact ht ▸ h.of_table_kept rfl rfl rfl (fun _ => rfl) (h.flightChecked.congr rfl rfl rfl rfl)
  | complete i u he hb hd hx hk ht => exact ht ▸ h.complete hb hd hk
  | reset rest hs ht =>
    exact ht ▸ (State.inv_powerOn s).of_engine_kept rfl rfl rfl rfl rfl rfl rfl rfl
  | idle hi hn ht => exact ht ▸ h.of_engine_kept rfl rfl rfl rfl rfl rfl rfl rfl

theorem exec_goesOn (i : Instr) (s : State) : GoesOn (exec i s) := by
  rcases exec_cases i s with ⟨_, hx⟩ | ⟨_, u, _, hx⟩
  · exact ⟨_, hx⟩
  · exact ⟨_, hx⟩

/-- The machine stops only in an action that says so. -/
theorem step_goesOn {s : State} (h : ∀ f, nextAction s ≠ .stop f) : GoesOn (step s) := by
  cases hna : nextAction s with
  | settle t => exact ⟨t, step_of_settle s t hna⟩
  | run i => exact step_of_run s i hna ▸ exec_goesOn i s
  | stop f => exact absurd hna (h f)

theorem issueWord_ne_stop (w : Word) (s : State) (f : Fault) : issueWord w s ≠ .stop f := by
  rcases issueWord_cases w s with ⟨_, h⟩ | ⟨_, _, h⟩ | ⟨_, _, _, h⟩ | ⟨_, _, i, _, h⟩ <;> simp [h]

theorem hostWrite_ne_stop (a : HostAddr) (v : Word) (s : State) (f : Fault) :
    hostWrite a v s ≠ .stop f := by
  rcases hostWrite_cases a v s with ⟨r, _, _, h⟩ | ⟨r, _, _, h⟩ | ⟨_, h⟩ | ⟨_, h⟩ | h <;>
    simp [h, issueWord_ne_stop]

/-- With a command in flight that is a command the engine's turn does not stop. -/
theorem engineTurn_ne_stop {s : State} (h : s.FlightChecked) (f : Fault) : engineTurn s ≠ .stop f := by
  rcases engineTurn_cases s with ⟨_, ha⟩ | ⟨_, i, _, ha⟩ | ⟨hb, ⟨e, he⟩, _⟩
  · simp [ha]
  · simp [ha]
  · obtain ⟨i, hd, _⟩ := h hb
    cases he.symm.trans hd

/-- Settles O22: of all events only the engine's turn can stop, and the invariant has a command in
flight. -/
theorem invariantStatesGoOn : Obligations.InvariantStatesGoOn := by
  intro s h
  refine step_goesOn fun f => ?_
  cases hs : s.schedule with
  | nil => exact nextAction_nil s hs ▸ engineTurn_ne_stop h.flightChecked f
  | cons ev rest =>
    cases ev with
    | engine => exact nextAction_engine s rest hs ▸ engineTurn_ne_stop h.flightChecked f
    | write a v => exact nextAction_write s a v rest hs ▸ hostWrite_ne_stop a v s f
    | read a => simp [nextAction_read s a rest hs]
    | reset => simp [nextAction_reset s rest hs]

/-- A state that meets the invariant steps to one that meets it. -/
theorem State.Inv.step {s : State} (h : s.Inv) : ∃ t, step s = .next t ∧ t.Inv := by
  obtain ⟨t, ht⟩ := invariantStatesGoOn s h
  exact ⟨t, ht, everyStepKeepsTheInvariant s t h ht⟩

theorem State.Inv.run {s : State} (h : s.Inv) (k : Nat) :
    ∃ t : State, Sys2Proof.core.run k s = .next t ∧ t.Inv := by
  induction k generalizing s with
  | zero => exact ⟨s, rfl, h⟩
  | succ k ih =>
    obtain ⟨u, hu, hinv⟩ := h.step
    obtain ⟨t, ht, htinv⟩ := ih hinv
    exact ⟨t, (run_succ k hu).trans ht, htinv⟩

/-- Settles O23: the reset state meets the invariant whatever is scheduled. -/
theorem noScheduleStopsTheMachine : Obligations.NoScheduleStopsTheMachine := by
  intro events k
  have hinv : { State.reset with schedule := events }.Inv :=
    resetMeetsTheInvariant.of_engine_kept rfl rfl rfl rfl rfl rfl rfl rfl
  exact hinv.run k

/-! ### The end of a flight (R30) -/

/-- Every step retires the event it takes. -/
theorem step_schedule {s t : State} (h : step s = .next t) : t.schedule = s.schedule.tail := by
  cases step_cases s t h with
  | read a rest u hs hu ht =>
    subst ht
    rcases hu with ⟨v, rfl⟩ | ⟨v, rfl⟩ <;> simp
  | complete i u he hb hd hx hk ht =>
    obtain ⟨-, -, hschedule⟩ := hk.keeps_control
    exact ht ▸ congrArg List.tail hschedule
  | _ => simp_all

/-- The engine's turn leaves nothing in flight. -/
theorem busy_of_turn {s t : State} (he : s.EngineTurn) (h : step s = .next t) : t.busy = false := by
  rcases engineTurn_cases s with ⟨hb, ha⟩ | ⟨hb, i, hd, -⟩ | ⟨_, _, ha⟩
  · rw [step_of_settle s _ ((nextAction_turn s he).trans ha)] at h
    cases h
    exact hb
  · obtain ⟨u, hx, hu, -⟩ := exec_inFlight_control i hb
    rw [step_turn_inFlight he hb hd, hx] at h
    cases h
    exact hu
  · rw [step_of_stop s _ ((nextAction_turn s he).trans ha)] at h
    cases h

/-- Settles O11: by induction on the schedule. At its end it is the engine's turn; before it each step
takes one event, and the next state meets the invariant again. -/
theorem flightEndsWithinTheSchedule : Obligations.FlightEndsWithinTheSchedule := by
  intro s h _
  induction hn : s.schedule generalizing s with
  | nil =>
    obtain ⟨t, ht, -⟩ := h.step
    exact ⟨1, Nat.le_refl 1, t, run_succ 0 ht, busy_of_turn (.inl hn) ht⟩
  | cons ev rest ih =>
    obtain ⟨t, ht, hinv⟩ := h.step
    have hrest : t.schedule = rest := (step_schedule ht).trans (congrArg List.tail hn)
    cases hb : t.busy with
    | false => exact ⟨1, by simp, t, run_succ 0 ht, hb⟩
    | true =>
      obtain ⟨k, hk, u, hu, hub⟩ := ih t hinv hb hrest
      exact ⟨k + 1, by simpa using hk, u, (run_succ k ht).trans hu, hub⟩

end Sys2Proof.Machine
end

section
/-!
PROOF. Who writes what: the matrix registers, the advance table and the operands of a command in flight
have no writers but the commands and the host accesses named for them (spec/10_state.md,
spec/20_memory.md section 2).
-/

namespace Sys2Proof.Machine

open Sys2Proof.Statements

/-- The completion of a command that writes no matrix register leaves them all (R32). -/
theorem exec_inFlight_m {i : Instr} {s t : State} (hb : s.busy = true) (hw : ¬ WritesMatrix i)
    (h : exec i s = .next t) : t.m = s.m := by
  have hkept {f : State → State} (hi : ∀ u, exec i u = command i f u) (hm : (f s).m = s.m) :
      t.m = s.m := by
    rw [exec_inFlight hi hb] at h
    cases h
    exact hm
  cases i
  case mbase => exact absurd trivial hw
  case msq => exact absurd trivial hw
  case mpow => exact absurd trivial hw
  case mset => exact absurd trivial hw
  case advb => exact hkept (fun _ => rfl) (State.buildAdv_m _ _)
  all_goals exact hkept (fun _ => rfl) rfl

/-- An effect leaves the advance table, or it is ADVB's, which sets ADV_VALID. -/
theorem EffectKind.table {i : Instr} {s u : State} (h : EffectKind i s u) :
    (u.adv = s.adv ∧ u.advs = s.advs ∧ u.advValid = s.advValid) ∨
    ((∃ rs1, i = .advb rs1) ∧ u.advValid = true) := by
  rcases h with rfl | ⟨rd, v, rfl⟩ | ⟨md, M, rfl⟩ | ⟨rs1, rfl, rfl⟩
  · exact .inl ⟨rfl, rfl, rfl⟩
  · exact .inl ⟨rfl, rfl, rfl⟩
  · exact .inl ⟨rfl, rfl, rfl⟩
  · exact .inr ⟨⟨rs1, rfl⟩, by simp⟩

/-- A step that is no reset completes the command in flight, or leaves the matrix registers and the
advance table. -/
theorem step_completes_or_keeps {s t : State} (h : step s = .next t)
    (hreset : ∀ rest, s.schedule ≠ .reset :: rest) :
    (s.EngineTurn ∧ s.busy = true ∧ ∃ i u, decode s.pend = .ok i ∧ exec i s = .next t ∧
      EffectKind i s u ∧ t = u.finish.retire) ∨
    (t.m = s.m ∧ t.adv = s.adv ∧ t.advs = s.advs ∧ t.advValid = s.advValid) := by
  cases step_cases s t h with
  | complete i u he hb hd hx hk ht => exact .inl ⟨he, hb, i, u, hd, hx, hk, ht⟩
  | reset rest hs ht => exact absurd hs (hreset rest)
  | read a rest u hs hu ht =>
    subst ht
    rcases hu with ⟨v, rfl⟩ | ⟨v, rfl⟩ <;> exact .inr (by simp)
  | _ => exact .inr (by simp [*])

/-- Settles O24: only a completion changes either; a matrix register then by the command's own effect, and
the table by ADVB's, which sets ADV_VALID. -/
theorem matricesAndTableHaveTheirOwnWriters : Obligations.MatricesAndTableHaveTheirOwnWriters := by
  intro s t h hreset
  rcases step_completes_or_keeps h hreset with
    ⟨he, hb, i, u, hd, hx, hk, rfl⟩ | ⟨hm, hadv, hadvs, hvalid⟩
  · refine ⟨fun hm => ⟨he, hb, i, hd, not_not.mp fun hw => hm (exec_inFlight_m hb hw hx)⟩, ?_⟩
    rcases hk.table with ⟨hadv, hadvs, hvalid⟩ | ⟨⟨rs1, rfl⟩, hvalid⟩
    · exact ⟨fun hne => by simp [hadv, hadvs, hvalid] at hne, hvalid.trans⟩
    · exact ⟨fun _ => ⟨he, hb, rs1, hd⟩, fun _ => hvalid⟩
  · exact ⟨fun hne => absurd hm hne, fun hne => by simp [hadv, hadvs, hvalid] at hne, hvalid.trans⟩

/-- Settles O25: with BUSY = 1 a register write and an acceptance cannot happen, and the steps that are
left besides the completion and reset touch the error or what the host sees. -/
theorem hostCannotTouchACommandInFlight : Obligations.HostCannotTouchACommandInFlight := by
  intro s t hb hturn hreset h
  cases step_cases s t h with
  | complete i u he _ hd hx hk ht => exact absurd he hturn
  | reset rest hs ht => exact absurd hs (hreset rest)
  | writeX r v rest hs hidle ht => simp [hb] at hidle
  | accept w rest i hs hr hd hc ht => exact absurd hr.1 (by simp [hb])
  | read a rest u hs hu ht =>
    subst ht
    rcases hu with ⟨v, rfl⟩ | ⟨v, rfl⟩ <;> simp [hb]
  | _ => simp [*]

end Sys2Proof.Machine
end

section
/-!
PROOF. The engine and its environment: what the host has read, how many free values it drew and what is
scheduled change nothing of what a command does (spec/20_memory.md section 3,
spec/70_reset_and_hazards.md section 4).
-/

namespace Sys2Proof.Machine

/-! ### One engine in another environment -/

/-- The engine of `s`, with another last word read, count of draws and schedule. -/
def State.inEnv (s : State) (rdata : Word) (draws : Nat) (schedule : List Event) : State :=
  { s with rdata := rdata, draws := draws, schedule := schedule }

section InEnv

variable (s : State) (rdata : Word) (draws : Nat) (schedule : List Event)

@[simp] theorem State.inEnv_busy : (s.inEnv rdata draws schedule).busy = s.busy := rfl
@[simp] theorem State.inEnv_pend : (s.inEnv rdata draws schedule).pend = s.pend := rfl
@[simp] theorem State.inEnv_err : (s.inEnv rdata draws schedule).err = s.err := rfl
@[simp] theorem State.inEnv_schedule : (s.inEnv rdata draws schedule).schedule = schedule := rfl

theorem State.raise_inEnv (e : ErrCode) (w : Word) :
    (s.inEnv rdata draws schedule).raise e w = (s.raise e w).inEnv rdata draws schedule := by
  by_cases he : s.err = .noError
  · rw [State.raise_of_noError s e w he]
    exact State.raise_of_noError (s.inEnv rdata draws schedule) e w he
  · rw [State.raise_of_error s e w he]
    exact State.raise_of_error (s.inEnv rdata draws schedule) e w he

theorem issue_inEnv (i : Instr) :
    issue i (s.inEnv rdata draws schedule) = (issue i s).inEnv rdata draws schedule := by
  have hcheck : issueCheck i (s.inEnv rdata draws schedule) = issueCheck i s :=
    issueCheck_congr i rfl rfl
  rcases issue_cases i s with ⟨e, hc, hi⟩ | ⟨hc, hi⟩
  · rw [hi, ← State.raise_inEnv]
    simp only [issue, hcheck, hc]
  · rw [hi]
    simp only [issue, hcheck, hc]
    rfl

/-- Every command's effect is the engine's own. -/
theorem exec_eq_command_inEnv (i : Instr) :
    ∃ f : State → State, (∀ s, exec i s = command i f s) ∧ ∀ s rdata draws schedule,
      f (s.inEnv rdata draws schedule) = (f s).inEnv rdata draws schedule := by
  cases i <;> exact ⟨_, fun _ => rfl, fun _ _ _ _ => rfl⟩

/-- A command does the same in every environment, and of the environment it only retires an event. -/
theorem exec_inEnv {s t : State} {i : Instr} (h : exec i s = .next t) :
    exec i (s.inEnv rdata draws schedule) = .next (t.inEnv rdata draws schedule.tail) := by
  obtain ⟨f, hf, henv⟩ := exec_eq_command_inEnv i
  rw [hf] at h ⊢
  rcases command_cases i f s t h with ⟨hb, rfl⟩ | ⟨hb, rfl⟩
  · rw [command_idle i f (s.inEnv rdata draws schedule) hb, issue_inEnv]
    rfl
  · rw [command_inFlight i f (s.inEnv rdata draws schedule) hb, henv]
    rfl

/-- A host read changes nothing but what the host has read and how many free values it drew. -/
theorem hostRead_eq_inEnv (a : HostAddr) (s : State) :
    ∃ rdata draws, hostRead a s = s.inEnv rdata draws s.schedule := by
  rcases hostRead_cases a s with ⟨v, h⟩ | ⟨v, h⟩
  · exact ⟨v, s.draws, h⟩
  · rw [h]
    unfold State.answerIfIdle
    split
    · exact ⟨_, _, rfl⟩
    · exact ⟨v, s.draws, rfl⟩

end InEnv

theorem sameEngine_iff {s t : State} :
    SameEngine s t ↔ ∃ rdata draws, t = s.inEnv rdata draws s.schedule := by
  constructor
  · intro h
    refine ⟨t.rdata, t.draws, ?_⟩
    cases s
    cases t
    simp_all [SameEngine, State.inEnv]
  · rintro ⟨rdata, draws, rfl⟩
    rfl

/-! ### The engine does not see what the host read -/

/-- Two actions that differ at most in what the host has read and drawn. -/
inductive Action.Alike : Action → Action → Prop
  | settle {t t' : State} (h : SameEngine t t') : Alike (.settle t) (.settle t')
  | run (i : Instr) : Alike (.run i) (.run i)
  | stop (f : Fault) : Alike (.stop f) (.stop f)

section Alike

variable (s : State) (rdata : Word) (draws : Nat)

theorem engineTurn_alike :
    (engineTurn s).Alike (engineTurn (s.inEnv rdata draws s.schedule)) := by
  unfold engineTurn
  rw [State.inEnv_busy, State.inEnv_pend]
  cases s.busy with
  | false => exact .settle rfl
  | true =>
    cases decode s.pend with
    | ok i => exact .run i
    | error e => exact .stop .pendNotACommand

theorem issueWord_alike (w : Word) :
    (issueWord w s).Alike (issueWord w (s.inEnv rdata draws s.schedule)) := by
  simp only [issueWord, State.inEnv_busy, State.inEnv_err, State.raise_inEnv]
  split
  · exact .settle (by rw [← s.raise_schedule .overrun w]; rfl)
  · split
    · exact .settle rfl
    · split
      · exact .settle (by rw [← s.raise_schedule .illegal w]; rfl)
      · exact .run _

theorem hostWrite_alike (a : HostAddr) (v : Word) :
    (hostWrite a v s).Alike (hostWrite a v (s.inEnv rdata draws s.schedule)) := by
  unfold hostWrite
  cases portReg a with
  | x r =>
    refine .settle ?_
    simp only [State.inEnv_busy, State.raise_inEnv]
    split
    · rw [← s.raise_schedule .overrun 0#32]; rfl
    · rfl
  | cmd => exact issueWord_alike s rdata draws v
  | _ => exact .settle rfl

theorem hostRead_alike (a : HostAddr) :
    SameEngine (hostRead a s).retire (hostRead a (s.inEnv rdata draws s.schedule)).retire := by
  obtain ⟨_, _, h⟩ := hostRead_eq_inEnv a s
  obtain ⟨_, _, h'⟩ := hostRead_eq_inEnv a (s.inEnv rdata draws s.schedule)
  rw [h, h']
  rfl

theorem nextAction_alike :
    (nextAction s).Alike (nextAction (s.inEnv rdata draws s.schedule)) := by
  unfold nextAction
  rw [State.inEnv_schedule]
  split
  · exact engineTurn_alike s rdata draws
  · exact engineTurn_alike s rdata draws
  · exact .settle (hostRead_alike s rdata draws _)
  · exact hostWrite_alike s rdata draws _ _
  · exact .settle rfl

end Alike

/-- Settles O26: the two states take alike actions, and a command does the same in both environments. -/
theorem readValuesNeverReachTheEngine : Obligations.ReadValuesNeverReachTheEngine := by
  intro s s' t hsame h
  obtain ⟨rdata, draws, rfl⟩ := sameEngine_iff.mp hsame
  have halike := nextAction_alike s rdata draws
  generalize ha : nextAction s = a, ha' : nextAction (s.inEnv rdata draws s.schedule) = a' at halike
  cases halike with
  | settle hu =>
    rw [step_of_settle s _ ha] at h
    cases h
    exact ⟨_, step_of_settle _ _ ha', hu⟩
  | run i =>
    have hschedule := step_schedule h
    rw [step_of_run s i ha] at h
    refine ⟨_, (step_of_run _ i ha').trans (exec_inEnv rdata draws s.schedule h), ?_⟩
    exact sameEngine_iff.mpr ⟨rdata, draws, by rw [hschedule]⟩
  | stop f =>
    rw [step_of_stop s f ha] at h
    cases h

/-! ### The time of completion -/

/-- A read before the engine's turn leaves the engine as it was. -/
theorem step_read_inEnv {s : State} {a : HostAddr} {rest : List Event}
    (h : s.schedule = .read a :: rest) :
    ∃ rdata draws, step s = .next (s.inEnv rdata draws rest) := by
  obtain ⟨rdata, draws, hread⟩ := hostRead_eq_inEnv a s
  refine ⟨rdata, draws, ?_⟩
  rw [step_read h, hread, State.retire_of_schedule (s.inEnv rdata draws s.schedule) h]
  rfl

/-- Settles O27: whatever the environment, the command in flight leaves one engine, and a read changes the
environment alone. -/
theorem completionCommutesWithReads : Obligations.CompletionCommutesWithReads := by
  intro s a rest h hb
  obtain ⟨i, hd, -⟩ := h.flight_checked hb
  obtain ⟨t, hx⟩ := exec_goesOn i s
  have hcomplete (rdata : Word) (draws : Nat) (l : List Event) :
      step (s.inEnv rdata draws (.engine :: l)) = .next (t.inEnv rdata draws l) :=
    (step_turn_inFlight (s := s.inEnv rdata draws (.engine :: l)) (.inr ⟨l, rfl⟩) hb hd).trans
      (exec_inEnv rdata draws (.engine :: l) hx)
  obtain ⟨rdata₁, draws₁, hread₁⟩ :=
    step_read_inEnv (s := s.inEnv s.rdata s.draws (.read a :: .engine :: rest)) rfl
  obtain ⟨rdata₂, draws₂, hread₂⟩ :=
    step_read_inEnv (s := t.inEnv s.rdata s.draws (.read a :: rest)) rfl
  exact ⟨_, _, _, _, hread₁, hcomplete rdata₁ draws₁ rest, hcomplete s.rdata s.draws _, hread₂, rfl⟩

end Sys2Proof.Machine
end

section
/-!
PROOF. The bit steps of the GF(2) operator engine, that they undo each other, and the zero-padding operator
as so many bit steps (spec/41_gf2_operator.md section 1).
-/

namespace Sys2Proof.Machine

/-! ### Linear maps by their values on the basis vectors (R170) -/

/-- Linear in the engine's sense: it respects exclusive-or, and keeps 0. -/
def XorLinear (h : Word → Word) : Prop := (∀ v w, h (v ^^^ w) = h v ^^^ h w) ∧ h 0#32 = 0#32

theorem xorLinear_id : XorLinear id := ⟨fun _ _ => rfl, rfl⟩

theorem xorLinear_bitStep (dir : Dir) : XorLinear (bitStep dir) := ⟨bitStep_xor dir, bitStep_zero dir⟩

theorem XorLinear.comp {g h : Word → Word} (hg : XorLinear g) (hh : XorLinear h) :
    XorLinear (g ∘ h) :=
  ⟨fun v w => by simp [hh.1, hg.1], by simp [hh.2, hg.2]⟩

theorem XorLinear.iterate {h : Word → Word} (hh : XorLinear h) (n : Nat) : XorLinear h^[n] := by
  induction n with
  | zero => exact xorLinear_id
  | succ n ih => exact ih.comp hh

/-- Two linear maps that agree on the basis vectors are equal. -/
theorem XorLinear.eq_of_basisVector {g h : Word → Word} (hg : XorLinear g) (hh : XorLinear h)
    (heq : ∀ k, g (basisVector k) = h (basisVector k)) (v : Word) : g v = h v := by
  have hrows (k : Fin 32) : (Vector.ofFn fun k => h (basisVector k))[k] = h (basisVector k) := by simp
  calc g v = gfApply (Vector.ofFn fun k => h (basisVector k)) v :=
        (gfApply_of_rows (fun k => (hrows k).trans (heq k).symm) hg.1 hg.2 v).symm
    _ = h v := gfApply_of_rows hrows hh.1 hh.2 v

/-! ### The bit steps undo each other (R171) -/

/-- The direction that undoes a direction. -/
def oppositeDir : Dir → Dir
  | .fwd => .inv
  | .inv => .fwd

theorem bitStep_oppositeDir (dir : Dir) (v : Word) :
    bitStep (oppositeDir dir) (bitStep dir v) = v := by
  have hbasis : ∀ k, bitStep (oppositeDir dir) (bitStep dir (basisVector k)) = basisVector k := by
    cases dir <;> decide
  exact ((xorLinear_bitStep _).comp (xorLinear_bitStep _)).eq_of_basisVector xorLinear_id hbasis v

theorem iterate_bitStep_oppositeDir (dir : Dir) (n : Nat) (v : Word) :
    (bitStep (oppositeDir dir))^[n] ((bitStep dir)^[n] v) = v :=
  Function.LeftInverse.iterate (bitStep_oppositeDir dir) n v

theorem getLsbD_fwd1_31 (c : Word) : (fwd1 c).getLsbD 31 = c.getLsbD 0 := by
  unfold fwd1
  cases c.getLsbD 0 <;> simp [Config.poly]

/-! ### Rows of the base operators (R174) -/

/-- Settles O50: the rows are images of basis vectors, and the columns of the spec list them. -/
theorem baseOperatorRows : Obligations.BaseOperatorRows := by
  refine ⟨getElem_gfBase, ?fwd, ?inv⟩
  all_goals
    simp only [getElem_gfBase]
    decide

/-! ### The zero-padding operator (R176) -/

/-- Applying the operator for `2^j` bits where bit `j` of the count is set. -/
theorem ite_gfApply_gfBaseIter (dir : Dir) (b : Bool) (m : Nat) (v : Word) :
    (if b then gfApply (gfBaseIter dir m) v else v) = (bitStep dir)^[m * b.toNat] v := by
  cases b <;> simp [gfApply_gfBaseIter]

/-- The loop of R176 from bit `j` on, `cur` being the operator for `2^j` bits, makes the bit steps that
the bits of `n` from `j` on count. -/
theorem zeroPadLoop_eq_iterate (n : Word) (dir : Dir) (m j : Nat) (hj : j + m = 32) (v : Word) :
    zeroPadLoop n (List.range' j m) (gfBaseIter dir (2 ^ j)) v =
      (bitStep dir)^[2 ^ j * (n.toNat / 2 ^ j)] v := by
  induction m generalizing j v with
  | zero =>
    obtain rfl : j = 32 := hj
    rw [Nat.div_eq_of_lt n.isLt]
    rfl
  | succ m ih =>
    have hbit : n.toNat / 2 ^ j = 2 * (n.toNat / 2 ^ (j + 1)) + (n.getLsbD j).toNat := by
      rw [BitVec.getLsbD, Nat.toNat_testBit, Nat.pow_succ, ← Nat.div_div_eq_div_mul]
      exact (Nat.div_add_mod _ 2).symm
    have hsplit : 2 ^ j * (n.toNat / 2 ^ j) =
        2 ^ (j + 1) * (n.toNat / 2 ^ (j + 1)) + 2 ^ j * (n.getLsbD j).toNat := by
      rw [hbit]
      ring
    have hlast : n >>> (j + 1) = 0#32 ↔ n.toNat / 2 ^ (j + 1) = 0 := by
      rw [← BitVec.toNat_inj, BitVec.toNat_ushiftRight, Nat.shiftRight_eq_div_pow]
      rfl
    rw [List.range'_succ, zeroPadLoop, ite_gfApply_gfBaseIter, gfSquare_gfBaseIter, ← Nat.pow_succ',
      hsplit, Function.iterate_add_apply]
    split
    next hzero => rw [hlast.mp hzero]; rfl
    next => exact ih (j + 1) (by omega) _

/-- Zero-padding by `n` bits is `n` bit steps. -/
theorem zeroPad_eq_iterate (v n : Word) (dir : Dir) : zeroPad v n dir = (bitStep dir)^[n.toNat] v := by
  unfold zeroPad
  split
  next hzero => rw [hzero]; rfl
  next =>
    have hloop := zeroPadLoop_eq_iterate n dir 32 0 rfl v
    rwa [Nat.pow_zero, Nat.div_one, Nat.one_mul, gfBaseIter_one, ← List.range_eq_range'] at hloop

theorem gfApply_gfPow (dir : Dir) (n v : Word) : gfApply (gfPow dir n) v = (bitStep dir)^[n.toNat] v := by
  rw [gfPow_eq_gfBaseIter, gfApply_gfBaseIter]

/-- Settles O52: both are `n` bit steps. -/
theorem zeroPadIsApplyOfPow : Obligations.ZeroPadIsApplyOfPow :=
  fun v n dir => (zeroPad_eq_iterate v n dir).trans (gfApply_gfPow dir n v).symm

/-! ### One byte step is eight bit steps (R33, R141) -/

/-- A round of the ROM's construction is a forward bit step. -/
theorem romRound_eq_fwd1 : romRound = fwd1 := by
  funext c
  unfold romRound fwd1
  split <;> simp

theorem tblEntry_eq_iterate (b : Byte) : tblEntry b = fwd1^[8] (zextByte b) := by
  rw [tblEntry, romRound_eq_fwd1]
  rfl

/-- While the bits that leave the word are 0, a bit step is a shift. -/
theorem iterate_fwd1_of_low_clear {v : Word} {n : Nat} (h : ∀ k < n, v.getLsbD k = false) :
    fwd1^[n] v = v >>> n := by
  induction n with
  | zero => simp
  | succ n ih =>
    have hbit : (v >>> n).getLsbD 0 = false := by simpa using h n (Nat.lt_succ_self n)
    rw [Function.iterate_succ_apply', ih fun k hk => h k (Nat.lt_succ_of_lt hk), fwd1, hbit]
    simp [BitVec.shiftRight_add]

theorem xorLinear_iterate_fwd1 (n : Nat) : XorLinear fwd1^[n] := (xorLinear_bitStep .fwd).iterate n

/-- The table-driven byte step: the byte is added to the register's low end, and eight bits are shifted
out, whose effect the ROM holds. -/
theorem upd_eq_iterate (r : Word) (b : Byte) : upd r b = fwd1^[8] (r ^^^ zextByte b) := by
  have hsplit : r ^^^ zextByte b = zextByte (lowByte (r ^^^ zextByte b)) ^^^ (r >>> 8 <<< 8) := by
    ext k hk
    by_cases h8 : k < 8
    · simp [zextByte, lowByte, h8, hk]
    · have hk8 : 8 + (k - 8) = k := by omega
      have hb : b.getLsbD k = false := BitVec.getLsbD_of_ge b k (by omega)
      simp [zextByte, lowByte, h8, hk8, hb, BitVec.getLsbD_eq_getElem, hk]
  have hshift : fwd1^[8] (r >>> 8 <<< 8) = r >>> 8 := by
    rw [iterate_fwd1_of_low_clear fun k hk => by simp [hk]]
    ext k hk
    simpa using BitVec.lt_of_getLsbD
  calc upd r b = fwd1^[8] (zextByte (lowByte (r ^^^ zextByte b))) ^^^ (r >>> 8) := by
        rw [upd, tblEntry_eq_iterate]
    _ = fwd1^[8] (r ^^^ zextByte b) := by
        conv_rhs => rw [hsplit, (xorLinear_iterate_fwd1 8).1, hshift]

/-- Settles O47: the formulas are the definitions, each step is undone by the one of the opposite direction,
and the byte step adds nothing where the byte is 0. -/
theorem bitStepsAreInverse : Obligations.BitStepsAreInverse := by
  refine ⟨fun _ => rfl, fun _ => rfl, fun c => ⟨?invFwd, ?fwdInv⟩, getLsbD_fwd1_31, fun c => ?byteStep,
    ?polynomials⟩
  case invFwd => exact bitStep_oppositeDir .fwd c
  case fwdInv => exact bitStep_oppositeDir .inv c
  case byteStep => rw [upd_eq_iterate]; simp [zextByte]
  case polynomials => decide

end Sys2Proof.Machine
end

section
/-!
PROOF. The laws of the operator engine and of the update engine (spec/41_gf2_operator.md section 1,
spec/40_crc_update.md section 1).
-/

namespace Sys2Proof.Machine

/-! ### The operator engine's laws (R177) -/

theorem zeroPad_oppositeDir (v n : Word) (dir : Dir) :
    zeroPad (zeroPad v n dir) n (oppositeDir dir) = v := by
  rw [zeroPad_eq_iterate, zeroPad_eq_iterate, iterate_bitStep_oppositeDir]

theorem zeroPad_zeroPad (v : Word) {n₁ n₂ : Word} (dir : Dir) (h : n₁.toNat + n₂.toNat < 2 ^ 32) :
    zeroPad (zeroPad v n₁ dir) n₂ dir = zeroPad v (n₁ + n₂) dir := by
  rw [zeroPad_eq_iterate, zeroPad_eq_iterate, zeroPad_eq_iterate, ← Function.iterate_add_apply,
    BitVec.toNat_add, Nat.mod_eq_of_lt h, Nat.add_comm]

theorem xorLinear_zeroPad (n : Word) (dir : Dir) : XorLinear fun v => zeroPad v n dir := by
  have h := (xorLinear_bitStep dir).iterate n.toNat
  exact ⟨fun v w => by simp only [zeroPad_eq_iterate, h.1], by simp only [zeroPad_eq_iterate, h.2]⟩

theorem xor_zeroByte (r : Word) : r ^^^ zextByte 0#8 = r := by
  simp [zextByte]

/-- The byte step of a zero byte is the zero padding of eight bits. -/
theorem upd_zero (r : Word) : upd r 0#8 = fwd1^[8] r := by
  rw [upd_eq_iterate, xor_zeroByte]

theorem getElem_gfPow (dir : Dir) (n : Word) (k : Fin 32) :
    (gfPow dir n)[k] = (bitStep dir)^[n.toNat] (basisVector k) := by
  rw [← gfApply_basisVector, gfApply_gfPow]

theorem gfPow_eq_ofFn (dir : Dir) (n : Word) :
    gfPow dir n = Vector.ofFn fun k => (bitStep dir)^[n.toNat] (basisVector k) := by
  refine Vector.ext fun k hk => ?_
  simpa using getElem_gfPow dir n ⟨k, hk⟩

/-- The 32 rows of the operator for eight zero bits (R177 (d)). -/
theorem byteStep_rows :
    (∀ k : Fin 32, k.val < 24 → fwd1^[8] (basisVector k) = 0x00800000#32 >>> k.val) ∧
    (List.ofFn fun k => fwd1^[8] (basisVector k)).drop 24 =
      [0xEDB88320, 0x76DC4190, 0x3B6E20C8, 0x1DB71064, 0x0EDB8832, 0x076DC419, 0xEE0E612C,
       0x77073096] := by
  decide

/-! ### The period of the bit step

`basisVector 0` is the polynomial 1 in reflected form and the forward bit step is multiplication by `x`, so
`n` bit steps are multiplication by the `n`-fold bit step of 1, and its square stands for `2n` bit steps. -/

/-- The matrix of multiplication by `c`: its rows are `c`, `c·x`, `c·x²`, and so on. -/
def mulMatrix (c : Word) : BitMatrix32 := Vector.ofFn fun k => fwd1^[k.val] c

theorem iterate_fwd1_basisVector : ∀ k : Fin 32, fwd1^[k.val] (basisVector 0) = basisVector k := by
  decide

theorem gfApply_mulMatrix (n : Nat) (v : Word) :
    gfApply (mulMatrix (fwd1^[n] (basisVector 0))) v = fwd1^[n] v := by
  have h := xorLinear_iterate_fwd1 n
  refine gfApply_of_rows (fun k => ?_) h.1 h.2 v
  rw [← iterate_fwd1_basisVector k, ← Function.iterate_add_apply, Nat.add_comm n,
    Function.iterate_add_apply]
  simp [mulMatrix]

/-- The square of `c`. -/
def squareWord (c : Word) : Word := gfApply (mulMatrix c) c

theorem iterate_squareWord (j : Nat) :
    squareWord^[j] (fwd1 (basisVector 0)) = fwd1^[2 ^ j] (basisVector 0) := by
  induction j with
  | zero => rfl
  | succ j ih =>
    rw [Function.iterate_succ_apply', ih, squareWord, gfApply_mulMatrix, ← Function.iterate_add_apply,
      ← Nat.two_mul, ← Nat.pow_succ']

/-- Squaring `x` 32 times gives `x` again. -/
theorem iterate_squareWord_32 :
    squareWord^[32] (fwd1 (basisVector 0)) = fwd1 (basisVector 0) := by
  decide +kernel

/-- After `2^32 - 1` bit steps every word is back: multiplication by `x^(2^32 - 1) = 1`. -/
theorem iterate_fwd1_period {n : Nat} (hn : n + 1 = 2 ^ 32) (v : Word) : fwd1^[n] v = v := by
  have hinj : Function.Injective fwd1 :=
    Function.LeftInverse.injective (bitStep_oppositeDir .fwd)
  have hone : fwd1^[n] (basisVector 0) = basisVector 0 := hinj <| by
    rw [← Function.iterate_succ_apply' fwd1 n, Nat.succ_eq_add_one, hn, ← iterate_squareWord,
      iterate_squareWord_32]
  rw [← gfApply_mulMatrix n, hone]
  exact gfApply_mulMatrix 0 v

theorem iterate_bitStep_period (dir : Dir) {n : Nat} (hn : n + 1 = 2 ^ 32) (v : Word) :
    (bitStep dir)^[n] v = v := by
  cases dir with
  | fwd => exact iterate_fwd1_period hn v
  | inv =>
    calc inv1^[n] v = inv1^[n] (fwd1^[n] v) := by rw [iterate_fwd1_period hn]
      _ = v := iterate_bitStep_oppositeDir .fwd n v

/-- Settles O53: inverse, additivity and linearity are those of iterated bit steps; the byte step is eight
of them; and so is the period. -/
theorem operatorEngineLaws : Obligations.OperatorEngineLaws := by
  refine ⟨fun v n => ⟨zeroPad_oppositeDir v n .fwd, zeroPad_oppositeDir v n .inv⟩,
    fun v n₁ n₂ dir h => zeroPad_zeroPad v dir (by omega),
    fun v₁ v₂ n dir => ⟨(xorLinear_zeroPad n dir).1 v₁ v₂, (xorLinear_zeroPad n dir).2⟩,
    ⟨fun v => ?byteStep, fun k hk => ?upperRows, ?lowerRows⟩, fun dir => ⟨?identity, fun v => ?period⟩⟩
  case byteStep => rw [gfApply_gfPow, upd_zero]; rfl
  case upperRows => exact (getElem_gfPow .fwd 8#32 k).trans (byteStep_rows.1 k hk)
  case lowerRows =>
    rw [gfPow_eq_ofFn, Vector.toList_ofFn]
    exact byteStep_rows.2
  case identity =>
    refine bitMatrix32_ext fun v => ?_
    rw [gfApply_gfPow, iterate_bitStep_period dir (by decide), gfApply_gfIdentity]
  case period => rw [zeroPad_eq_iterate, iterate_bitStep_period dir (by decide)]

/-! ### The update engine's laws (R146) and its ROM (R33) -/

/-- The byte fed to the register adds its ROM entry to the step of a zero byte. -/
theorem upd_eq_xor (r : Word) (b : Byte) : upd r b = upd r 0#8 ^^^ tblEntry b := by
  rw [upd_eq_iterate, upd_zero, tblEntry_eq_iterate, (xorLinear_iterate_fwd1 8).1]

theorem upd_xor_zero (r₁ r₂ : Word) : upd (r₁ ^^^ r₂) 0#8 = upd r₁ 0#8 ^^^ upd r₂ 0#8 := by
  simp only [upd_zero, (xorLinear_iterate_fwd1 8).1]

/-- Settles O46: the byte step is eight bit steps of the register with the byte added. -/
theorem updateIsLinear : Obligations.UpdateIsLinear :=
  ⟨upd_xor_zero, upd_eq_xor, fun r => (upd_zero r).trans (zeroPad_eq_iterate r 8#32 .fwd).symm⟩

/-- Settles O45: an evaluation of the construction at each of the 256 bytes. -/
theorem romHoldsTheListedValues : Obligations.RomHoldsTheListedValues := by
  unfold Obligations.RomHoldsTheListedValues
  decide +kernel

end Sys2Proof.Machine
end

section
/-!
PROOF. The algebra of CRC values: feeding bytes to the register, concatenation, the zero-run oracle and
trimming (spec/42_zero_run_oracle.md section 1, spec/43_combine_trim.md section 1).
-/

namespace Sys2Proof.Machine

/-! ### Lengths in bytes and in bits (R237) -/

theorem toNat_mul_eight {L : Word} (h : L ≤ 0x1FFFFFFF#32) : (8#32 * L).toNat = 8 * L.toNat := by
  rw [BitVec.le_def] at h
  simp only [BitVec.toNat_mul, BitVec.toNat_ofNat] at h ⊢
  omega

theorem mul_eight_ne_zero {L : Word} (h : L ≤ 0x1FFFFFFF#32) (hL : L ≠ 0#32) : 8#32 * L ≠ 0#32 := by
  rw [ne_eq, ← BitVec.toNat_inj] at hL ⊢
  rw [toNat_mul_eight h]
  simp only [BitVec.toNat_ofNat] at hL ⊢
  omega

theorem toNat_ofNat_length {n : Nat} (h : n ≤ 0x1FFFFFFF) : (BitVec.ofNat 32 n).toNat = n :=
  (BitVec.toNat_ofNat n 32).trans (Nat.mod_eq_of_lt (by omega))

theorem ofNat_length_le {n : Nat} (h : n ≤ 0x1FFFFFFF) : BitVec.ofNat 32 n ≤ 0x1FFFFFFF#32 := by
  rw [BitVec.le_def, toNat_ofNat_length h]
  exact h

/-- Padding by the bits of `L` bytes. -/
theorem zeroPad_bytes (v : Word) {L : Word} (h : L ≤ 0x1FFFFFFF#32) (dir : Dir) :
    zeroPad v (8#32 * L) dir = (bitStep dir)^[8 * L.toNat] v := by
  rw [zeroPad_eq_iterate, toNat_mul_eight h]

/-- Combining with a length 0 is the formula as well, since then nothing was appended (R230). -/
theorem crcCombine_eq {L b : Word} (a : Word) (h : L ≤ 0x1FFFFFFF#32) (hb : L = 0#32 → b = 0#32) :
    crcCombine a b L = fwd1^[8 * L.toNat] a ^^^ b := by
  by_cases hL : L = 0#32
  · rw [hb hL, hL, crcCombine_zero]
    exact BitVec.xor_zero.symm
  · rw [crcCombine_of_ne_zero hL, zeroPad_bytes a h .fwd]
    rfl

/-! ### Feeding bytes to the register (R142, R234) -/

/-- Feeding bytes is affine in the register: the register is stepped eight bits for each of them. -/
theorem foldl_upd (r : Word) (B : List Byte) :
    B.foldl upd r = fwd1^[8 * B.length] r ^^^ B.foldl upd 0#32 := by
  induction B generalizing r with
  | nil => exact BitVec.xor_zero.symm
  | cons b B ih =>
    have hupd : upd r b = fwd1^[8] r ^^^ upd 0#32 b := by
      rw [upd_eq_xor, upd_zero, upd_eq_xor 0#32 b, upd_zero, (xorLinear_iterate_fwd1 8).2,
        BitVec.zero_xor]
    have hlength : 8 * (b :: B).length = 8 * B.length + 8 := by simp [Nat.mul_add]
    rw [List.foldl_cons, List.foldl_cons, ih (upd r b), ih (upd 0#32 b), hupd,
      (xorLinear_iterate_fwd1 _).1, hlength, Function.iterate_add_apply, BitVec.xor_assoc]

theorem working_append (A B : List Byte) : working (A ++ B) = B.foldl upd (working A) :=
  List.foldl_append

theorem crcHash_nil : crcHash [] = 0#32 := by decide

/-- The concatenation law (R234). -/
theorem crcHash_append (A B : List Byte) :
    crcHash (A ++ B) = fwd1^[8 * B.length] (crcHash A) ^^^ crcHash B := by
  have hB : working B = fwd1^[8 * B.length] Config.init ^^^ B.foldl upd 0#32 := foldl_upd _ B
  have hF : Config.xorOut = Config.init := rfl
  rw [crcHash, crcHash, crcHash, working_append, foldl_upd, hB, (xorLinear_iterate_fwd1 _).1, hF]
  generalize fwd1^[8 * B.length] (working A) = a, fwd1^[8 * B.length] Config.init = f
  calc a ^^^ B.foldl upd 0#32 ^^^ Config.init
      = a ^^^ (f ^^^ f) ^^^ B.foldl upd 0#32 ^^^ Config.init := by
        rw [BitVec.xor_self, BitVec.xor_zero]
    _ = a ^^^ f ^^^ (f ^^^ B.foldl upd 0#32 ^^^ Config.init) := by ac_rfl

theorem crcHash_append_eq_crcCombine (A : List Byte) {B : List Byte} (h : B.length ≤ 0x1FFFFFFF) :
    crcHash (A ++ B) = crcCombine (crcHash A) (crcHash B) (BitVec.ofNat 32 B.length) := by
  have hnil : BitVec.ofNat 32 B.length = 0#32 → crcHash B = 0#32 := by
    intro hzero
    have hlength := congrArg BitVec.toNat hzero
    rw [toNat_ofNat_length h] at hlength
    rw [List.length_eq_zero_iff.mp hlength, crcHash_nil]
  rw [crcCombine_eq _ (ofNat_length_le h) hnil, toNat_ofNat_length h, crcHash_append]

/-- Settles O55: the last clause is the concatenation law with both working forms written as public forms,
which differ from them by the final XOR. -/
theorem combineIsConcatenation : Obligations.CombineIsConcatenation := by
  intro A B h
  have hpad (v : Word) :
      zeroPad v (8#32 * BitVec.ofNat 32 B.length) .fwd = fwd1^[8 * B.length] v := by
    rw [zeroPad_bytes v (ofNat_length_le h) .fwd, toNat_ofNat_length h]
    rfl
  refine ⟨crcHash_append_eq_crcCombine A h, fun r => ?affine, ?workingForms⟩
  case affine => rw [hpad, ← foldl_upd]
  case workingForms =>
    rw [hpad, hpad, crcHash_append, crcHash, crcHash, (xorLinear_iterate_fwd1 _).1]
    generalize fwd1^[8 * B.length] (working A) = a
    show a ^^^ working B = a ^^^ fwd1^[8 * B.length] Config.xorOut ^^^ (working B ^^^ Config.xorOut) ^^^
      (fwd1^[8 * B.length] Config.xorOut ^^^ Config.xorOut)
    generalize fwd1^[8 * B.length] Config.xorOut = f
    calc a ^^^ working B
        = a ^^^ working B ^^^ (f ^^^ f) ^^^ (Config.xorOut ^^^ Config.xorOut) := by
          simp only [BitVec.xor_self, BitVec.xor_zero]
      _ = a ^^^ f ^^^ (working B ^^^ Config.xorOut) ^^^ (f ^^^ Config.xorOut) := by ac_rfl

/-! ### The zero-run oracle (R210, R211) -/

/-- The public form of `n` zero bytes. -/
def zeroRun (n : Nat) : Word := crcHash (List.replicate n 0x00#8)

theorem foldl_upd_replicate_zero (n : Nat) (r : Word) :
    (List.replicate n 0x00#8).foldl upd r = fwd1^[8 * n] r := by
  induction n generalizing r with
  | zero => rfl
  | succ n ih =>
    rw [List.replicate_succ, List.foldl_cons, ih, upd_zero, ← Function.iterate_add_apply,
      ← Nat.mul_succ]

theorem zeroRun_eq_iterate (n : Nat) : zeroRun n = fwd1^[8 * n] 0xFFFFFFFF#32 ^^^ 0xFFFFFFFF#32 :=
  congrArg (· ^^^ Config.xorOut) (foldl_upd_replicate_zero n Config.init)

theorem zeroRun_zero : zeroRun 0 = 0#32 := crcHash_nil

/-- The seed of R210 is the CRC of one zero byte. -/
theorem zeroRun_one : zeroRun 1 = Config.zeroByteCrc := by decide

theorem crcCombine_zeroRun (m : Nat) {n : Nat} (h : n ≤ 0x1FFFFFFF) :
    crcCombine (zeroRun m) (zeroRun n) (BitVec.ofNat 32 n) = zeroRun (m + n) := by
  have happend := crcHash_append_eq_crcCombine (List.replicate m 0x00#8)
    (B := List.replicate n 0x00#8) (by simpa using h)
  rw [List.length_replicate] at happend
  rw [zeroRun, zeroRun, ← happend, List.replicate_append_replicate, zeroRun]

theorem shiftLeft_one_eq_ofNat (j : Nat) : 1#32 <<< j = BitVec.ofNat 32 (2 ^ j) := by
  rw [← BitVec.twoPow_eq]
  exact BitVec.eq_of_toNat_eq (by simp)

/-- The loop of R210 before bit `j`: `acc` is the CRC of as many zero bytes as the bits of `L` below `j`
count, and `blk` the one of `2^j` zero bytes. -/
theorem oracle_loop (L : Word) (j : Nat) (hj : j ≤ 29) :
    (List.range j).foldl
      (fun (p : Word × Word) k =>
        (if L.getLsbD k then crcCombine p.1 p.2 (1#32 <<< k) else p.1, crcCombine p.2 p.2 (1#32 <<< k)))
      (0#32, Config.zeroByteCrc) = (zeroRun (L.toNat % 2 ^ j), zeroRun (2 ^ j)) := by
  induction j with
  | zero =>
    rw [Nat.pow_zero, Nat.mod_one, zeroRun_zero, zeroRun_one]
    rfl
  | succ j ih =>
    have hmod : L.toNat % 2 ^ (j + 1) = L.toNat % 2 ^ j + 2 ^ j * (L.getLsbD j).toNat := by
      rw [Nat.mod_pow_succ, BitVec.getLsbD, Nat.toNat_testBit]
    have hpow : 2 ^ j ≤ 0x1FFFFFFF :=
      (Nat.pow_le_pow_right (by decide) (Nat.le_of_succ_le_succ hj)).trans (by decide : 2 ^ 28 ≤ _)
    rw [List.range_succ, List.foldl_append, ih (Nat.le_of_succ_le hj), List.foldl_cons, List.foldl_nil,
      shiftLeft_one_eq_ofNat, crcCombine_zeroRun _ hpow, crcCombine_zeroRun _ hpow, hmod, ← Nat.two_mul,
      ← Nat.pow_succ']
    cases L.getLsbD j <;> simp

theorem oracle_eq_zeroRun {L : Word} (h : L ≤ 0x1FFFFFFF#32) : oracle L = zeroRun L.toNat := by
  unfold oracle
  split
  next hzero =>
    rw [hzero]
    exact zeroRun_zero.symm
  next =>
    have hlt : L.toNat < 2 ^ 29 := Nat.lt_succ_of_le (BitVec.le_def.mp h)
    rw [oracle_loop L 29 (Nat.le_refl 29), Nat.mod_eq_of_lt hlt]

/-- Settles O54: the oracle's loop joins runs of zero bytes, and so does Combine. -/
theorem oracleIsTheCrcOfZeroBytes : Obligations.OracleIsTheCrcOfZeroBytes := by
  refine ⟨fun L => oracle_eq_zeroRun, fun L h => ?closedForm, fun L₁ L₂ h => ?additive⟩
  case closedForm =>
    rw [oracle_eq_zeroRun h, zeroRun_eq_iterate, zeroPad_bytes _ h .fwd]
    rfl
  case additive =>
    have hsum : (L₁ + L₂).toNat = L₁.toNat + L₂.toNat := by
      rw [BitVec.toNat_add]
      omega
    have h₁ : L₁ ≤ 0x1FFFFFFF#32 := (Nat.le_add_right _ _).trans h
    have h₂ : L₂ ≤ 0x1FFFFFFF#32 := (Nat.le_add_left _ _).trans h
    have h₁₂ : L₁ + L₂ ≤ 0x1FFFFFFF#32 := BitVec.le_def.mpr (hsum ▸ h)
    have hcombine := crcCombine_zeroRun L₁.toNat (n := L₂.toNat) (BitVec.le_def.mp h₂)
    rw [BitVec.ofNat_toNat, BitVec.setWidth_eq] at hcombine
    rw [oracle_eq_zeroRun h₁, oracle_eq_zeroRun h₂, oracle_eq_zeroRun h₁₂, hsum, hcombine]

/-! ### Trim (R231, R235, R236) -/

/-- Trim takes the suffix's CRC out again and undoes the padding; with a length 0 there is nothing to
undo. -/
theorem crcTrim_crcCombine (a b : Word) {L : Word} (h : L ≤ 0x1FFFFFFF#32) :
    crcTrim (crcCombine a b L) b (8#32 * L) = a := by
  by_cases hL : L = 0#32
  · rw [hL, crcCombine_zero]
    exact crcTrim_zero a b
  · rw [crcTrim_of_ne_zero (mul_eight_ne_zero h hL), crcCombine_of_ne_zero hL, BitVec.xor_assoc,
      BitVec.xor_self, BitVec.xor_zero]
    exact zeroPad_oppositeDir a (8#32 * L) .fwd

theorem crcCombine_crcTrim (x y : Word) {L : Word} (h : L ≤ 0x1FFFFFFF#32) :
    crcCombine (crcTrim x y (8#32 * L)) y L = x := by
  by_cases hL : L = 0#32
  · rw [hL, crcCombine_zero]
    exact crcTrim_zero x y
  · have hpad : zeroPad (zeroPad (x ^^^ y) (8#32 * L) .inv) (8#32 * L) .fwd = x ^^^ y :=
      zeroPad_oppositeDir _ _ .inv
    rw [crcTrim_of_ne_zero (mul_eight_ne_zero h hL), crcCombine_of_ne_zero hL, hpad, BitVec.xor_assoc,
      BitVec.xor_self, BitVec.xor_zero]

/-- Settles O56: the two paddings undo each other. With 6 in both places 48 bits are appended and 6 taken
away, which for `a = 1` and `b = 0` leaves 42 too many. -/
theorem trimAndCombineAreInverse : Obligations.TrimAndCombineAreInverse := by
  refine ⟨fun a b x y L h => ⟨crcTrim_crcCombine a b h, crcCombine_crcTrim x y h⟩,
    ⟨1#32, 0#32, ?sameNumber⟩, crcTrim_zero, crcCombine_zero⟩
  have hcombine : crcCombine 1#32 0#32 6#32 = fwd1^[6] (fwd1^[42] 1#32) := by
    rw [crcCombine_of_ne_zero (by decide), zeroPad_eq_iterate, BitVec.xor_zero,
      ← Function.iterate_add_apply]
    rfl
  have htrim : crcTrim (fwd1^[6] (fwd1^[42] 1#32)) 0#32 6#32 = fwd1^[42] 1#32 := by
    rw [crcTrim_of_ne_zero (by decide), zeroPad_eq_iterate, BitVec.xor_zero]
    exact iterate_bitStep_oppositeDir .fwd 6 _
  rw [hcombine, htrim]
  decide

end Sys2Proof.Machine
end

section
/-!
PROOF. The advance table and the peel: an entry is a one-byte CRC moved past `S` zero bytes, and peeling a
byte moves the stream on by one place (spec/44_advance_table.md section 1, spec/70_reset_and_hazards.md
section 2).
-/

namespace Sys2Proof.Machine

/-! ### The entries of the table (R260, R268) -/

theorem advEntry_eq_iterate {S : Word} (h : S ≤ 0x1FFFFFFF#32) (b : Byte) :
    advEntry S b = fwd1^[8 * S.toNat] (crcHash [b]) := by
  have horacle : S = 0#32 → oracle S = 0#32 := fun hS => if_pos hS
  rw [advEntry, crcCombine_eq _ h horacle, BitVec.xor_assoc, BitVec.xor_self, BitVec.xor_zero]

/-- A peel in a state that holds the table for `S`. -/
theorem peelStep_eq {s : State} {S : Word} (hs : s.HoldsTable S) (h : S ≤ 0x1FFFFFFF#32) (r : Word)
    (b : Byte) : s.peelStep r b = upd r 0x00#8 ^^^ fwd1^[8 * S.toNat] (crcHash [b]) := by
  rw [State.peelStep, hs b, advEntry_eq_iterate h]

/-- Settles O57: the table's entry is the one-byte CRC after `8·S` forward bit steps. -/
theorem advanceTableMatchesOperatorPath : Obligations.AdvanceTableMatchesOperatorPath := by
  intro S b h
  have hpad : zeroPad (crcHash [b]) (8#32 * S) .fwd = fwd1^[8 * S.toNat] (crcHash [b]) :=
    zeroPad_bytes _ h .fwd
  refine ⟨rfl, ?closedForm, advEntry_eq_iterate (by decide) b, fun s r hs => ?peel⟩
  case closedForm => rw [hpad, advEntry_eq_iterate h]
  case peel => rw [hpad, peelStep_eq hs h]

/-! ### The peel invariant (R262) -/

/-- The working form of a stream `b Y`, one zero byte appended, exceeds the one of `Y` with the zero byte
by the one-byte CRC of `b`, moved past the bytes that follow it: and that is what the peel takes out. -/
theorem peelStep_working {s : State} {S : Word} (hs : s.HoldsTable S) (h : S ≤ 0x1FFFFFFF#32) {b : Byte}
    {Y : List Byte} (hlength : (b :: Y).length = S.toNat) :
    s.peelStep (working (b :: Y)) b = working (Y ++ [0x00#8]) := by
  have hzero : upd (working (b :: Y)) 0x00#8 = (Y ++ [0x00#8]).foldl upd (working [b]) := by
    rw [List.foldl_append]
    rfl
  have hbytes : (Y ++ [0x00#8]).length = S.toNat := by simpa using hlength
  have hhash : crcHash [b] = working [b] ^^^ Config.init := rfl
  have hworking : working (Y ++ [0x00#8]) =
      fwd1^[8 * S.toNat] Config.init ^^^ (Y ++ [0x00#8]).foldl upd 0#32 := by
    rw [← hbytes]
    exact foldl_upd _ _
  rw [peelStep_eq hs h, hzero, foldl_upd, hworking, hbytes, hhash, (xorLinear_iterate_fwd1 _).1]
  generalize fwd1^[8 * S.toNat] (working [b]) = a, fwd1^[8 * S.toNat] Config.init = f,
    (Y ++ [0x00#8]).foldl upd 0#32 = c
  calc a ^^^ c ^^^ (a ^^^ f) = (a ^^^ a) ^^^ (f ^^^ c) := by ac_rfl
    _ = f ^^^ c := by rw [BitVec.xor_self, BitVec.zero_xor]

/-- Peeling several bytes in order, by induction on them: the stream keeps its length. -/
theorem foldl_peelStep_working {s : State} {S : Word} (hs : s.HoldsTable S) (h : S ≤ 0x1FFFFFFF#32)
    (P Q : List Byte) (hlength : (P ++ Q).length = S.toNat) :
    P.foldl s.peelStep (working (P ++ Q)) = working (Q ++ List.replicate P.length 0x00#8) := by
  induction P generalizing Q with
  | nil => simp
  | cons b P ih =>
    rw [List.cons_append] at hlength ⊢
    have hrest : (P ++ (Q ++ [0x00#8])).length = S.toNat := by
      rw [← hlength]
      simp only [List.length_append, List.length_cons, List.length_nil]
      omega
    have hpeel : s.peelStep (working (b :: (P ++ Q))) b = working (P ++ (Q ++ [0x00#8])) := by
      rw [peelStep_working hs h hlength, List.append_assoc]
    rw [List.foldl_cons, hpeel, ih _ hrest, List.append_assoc, List.length_cons,
      List.replicate_succ, List.singleton_append]

/-- Settles O58: one byte, and then several in order. -/
theorem peelMovesTheStreamOn : Obligations.PeelMovesTheStreamOn :=
  fun _ _ hs h => ⟨fun _ _ => peelStep_working hs h, foldl_peelStep_working hs h⟩

/-- Settles O59: after the peel the stream is the suffix followed by `|P|` zero bytes, whose public form is
Combine of the suffix's and the oracle's; and the trim undoes that Combine. -/
theorem suffixCrcFromWholeAndPrefix : Obligations.SuffixCrcFromWholeAndPrefix := by
  intro s S P Q hs h hlength hlt
  have hP : P.length ≤ 0x1FFFFFFF := hlt.le.trans (BitVec.le_def.mp h)
  have hworking : crcHash (P ++ Q) ^^^ 0xFFFFFFFF#32 = working (P ++ Q) := xor_xorOut_xorOut _
  have hpublic : working (Q ++ List.replicate P.length 0x00#8) ^^^ 0xFFFFFFFF#32 =
      crcCombine (crcHash Q) (oracle (BitVec.ofNat 32 P.length)) (BitVec.ofNat 32 P.length) := by
    have happend := crcHash_append_eq_crcCombine Q (B := List.replicate P.length 0x00#8)
      (by simpa using hP)
    rw [List.length_replicate] at happend
    rw [oracle_eq_zeroRun (ofNat_length_le hP), toNat_ofNat_length hP, zeroRun, ← happend]
    rfl
  rw [hworking, foldl_peelStep_working hs h P Q hlength, hpublic,
    crcTrim_crcCombine _ _ (ofNat_length_le hP)]

end Sys2Proof.Machine
end
